-- ==== Sys2Proof/Word.lean ====
section
/-! DEFINITION. The word types of HBCORE (spec/00_scope.md R14: bytes and the unsigned integers u8, u16, u32). -/

namespace Sys2Proof

/-- A byte, `u8` of R14. -/
abbrev Byte := BitVec 8

/-- `u16` of R14. -/
abbrev U16 := BitVec 16

/-- `u32` of R14; its addition, multiplication and exclusive or are the wrapping ones. -/
abbrev U32 := BitVec 32

end Sys2Proof
end

