-- ==== Sys2Proof/Syntax.lean ====
section
/-! DEFINITION. The instructions: one constructor per row of spec/opcode_table.json. Six commands of format CMD8
(spec/30_encoding.md R90, R91), whose operands are implicit (R92), and the three packets of format WIRE (R96, R97, R98,
R104), whose fields are the letters of the row's encoding. -/

namespace Sys2Proof

/-- The flag of a Heartbeat Request (R33, R101): First or NotFirst. -/
inductive HbFlag where
  | first
  | notFirst
deriving DecidableEq, Repr

/-- Six raw bytes, byte 0 first on the wire: the MAC address (R38, R66). -/
structure Bytes6 where
  b0 : Byte
  b1 : Byte
  b2 : Byte
  b3 : Byte
  b4 : Byte
  b5 : Byte
deriving DecidableEq, Repr

/-- Seven raw bytes, byte 0 first on the wire: the reserved field of the Challenge Response (R97). -/
structure Bytes7 where
  b0 : Byte
  b1 : Byte
  b2 : Byte
  b3 : Byte
  b4 : Byte
  b5 : Byte
  b6 : Byte
deriving DecidableEq, Repr

/-- Eight raw bytes, byte 0 first on the wire: the checksum field of the Heartbeat Request (R98, bytes 24 to 31). -/
structure Bytes8 where
  b0 : Byte
  b1 : Byte
  b2 : Byte
  b3 : Byte
  b4 : Byte
  b5 : Byte
  b6 : Byte
  b7 : Byte
deriving DecidableEq, Repr

/-- The fields of a Challenge Request on the wire (R96): letters `o`, `s`. -/
structure CreqPacket where
  opc : Byte
  seq : Byte
deriving DecidableEq, Repr

/-- The fields of the parsed prefix of a Challenge Response (R97): letters `o`, `r`, `d`, `a`. The source address is
the number `from_be32` of its four bytes. -/
structure CrespPacket where
  opc : Byte
  reserved : Bytes7
  seed : U32
  srcIp : U32
deriving DecidableEq, Repr

/-- The fields of a Heartbeat Request on the wire (R98): letters `o`, `s`, `t`, `u`, `m`, `a`, `f`, `d`, `c`. The
source address has its first octet in bits 31 to 24 (R34). -/
structure HbPacket where
  opc : Byte
  seq : Byte
  typeId : Byte
  uidLen : Byte
  mac : Bytes6
  srcIp : U32
  flag : HbFlag
  seed : U32
  checksum : Bytes8
deriving DecidableEq, Repr

/-- One constructor per row of spec/opcode_table.json. -/
inductive Instr where
  /-- MODESEL, command code 0x01 (R128). -/
  | modesel
  /-- HASH, command code 0x02 (R129). -/
  | hash
  /-- CRC32, command code 0x03 (R142). -/
  | crc32
  /-- ENC_CREQ, command code 0x04 (R152). -/
  | encCreq
  /-- DEC_CRESP, command code 0x05 (R164). -/
  | decCresp
  /-- ENC_HB, command code 0x06 (R177). -/
  | encHb
  /-- PKT_CREQ, the Challenge Request on the wire (R96). -/
  | pktCreq (p : CreqPacket)
  /-- PKT_CRESP, the Challenge Response on the wire (R97). -/
  | pktCresp (p : CrespPacket)
  /-- PKT_HB, the Heartbeat Request on the wire (R98). -/
  | pktHb (p : HbPacket)
deriving DecidableEq, Repr

/-- The six command mnemonics of the host script notation (R91, R102). -/
inductive Mnemonic where
  | modesel
  | hash
  | crc32
  | encCreq
  | decCresp
  | encHb
deriving DecidableEq, Repr

end Sys2Proof
end

