-- ==== Sys2Proof/Machine/Bytes.lean ====
section
/-! DEFINITION. Byte sequences and the byte-order helpers of spec/00_scope.md R14 and R15. -/

namespace Sys2Proof.Machine

/-- `le16(v)` (R15). -/
def le16 (v : U16) : List Byte := [v.extractLsb' 0 8, v.extractLsb' 8 8]

/-- `le32(v)` (R15). -/
def le32 (v : U32) : List Byte :=
  [v.extractLsb' 0 8, v.extractLsb' 8 8, v.extractLsb' 16 8, v.extractLsb' 24 8]

/-- `be32(v)` (R15). -/
def be32 (v : U32) : List Byte :=
  [v.extractLsb' 24 8, v.extractLsb' 16 8, v.extractLsb' 8 8, v.extractLsb' 0 8]

/-- Byte number `i` of a sequence (R14); 0 past its end, where the spec's functions never look. -/
def byteAt (bs : List Byte) (i : Nat) : Byte := bs.getD i 0

/-- `s[a .. a+n-1]` (R14). -/
def slice (bs : List Byte) (a n : Nat) : List Byte := (bs.drop a).take n

/-- `from_le32` of four bytes (R15): the first byte is the low one. -/
def fromLe32 (bs : List Byte) : U32 := byteAt bs 3 ++ byteAt bs 2 ++ byteAt bs 1 ++ byteAt bs 0

/-- `from_be32` of four bytes (R15): the first byte is the high one. -/
def fromBe32 (bs : List Byte) : U32 := byteAt bs 0 ++ byteAt bs 1 ++ byteAt bs 2 ++ byteAt bs 3

/-- `zeros(n)` (R14). -/
def zeros (n : Nat) : List Byte := List.replicate n 0

/-- `mul32(a, b)`, the wrapping product (R14). -/
def mul32 (a b : U32) : U32 := a * b

end Sys2Proof.Machine

namespace Sys2Proof

/-- The bytes of a six-byte field in wire order. -/
def Bytes6.toList (x : Bytes6) : List Byte := [x.b0, x.b1, x.b2, x.b3, x.b4, x.b5]

/-- The bytes of a seven-byte field in wire order. -/
def Bytes7.toList (x : Bytes7) : List Byte := [x.b0, x.b1, x.b2, x.b3, x.b4, x.b5, x.b6]

/-- The bytes of an eight-byte field in wire order. -/
def Bytes8.toList (x : Bytes8) : List Byte := [x.b0, x.b1, x.b2, x.b3, x.b4, x.b5, x.b6, x.b7]

end Sys2Proof
end

