-- ==== Sys2Proof/Decode.lean ====
section
/-! DEFINITION. The decoder and the encoder (spec/30_encoding.md). A command code is one byte (R90, R91); a packet is a
byte sequence in wire order whose layout is R96, R97 or R98. The format is part of the question: the bytes of a packet
do not say which packet they are, since the three opcode bytes are parameters that may be equal (R9). -/

namespace Sys2Proof

/-- The formats of spec/opcode_table.json: CMD8 and the three layouts of format WIRE (R104). -/
inductive Format where
  | cmd8
  | wireCreq
  | wireCresp
  | wireHb
deriving DecidableEq, Repr

/-- How many bytes an instruction of a format has (R90, R12); for the Challenge Response the parsed 16 (R97). -/
def Format.size : Format → Nat
  | .cmd8 => 1
  | .wireCreq => 8
  | .wireCresp => 16
  | .wireHb => 96

/-- Why bytes are no instruction. -/
inductive DecodeError where
  /-- A command code with no command, 0x00 or 0x07 to 0xFF (R93). -/
  | illegalCommand (code : Byte)
  /-- Not the format's number of bytes (R90, R96, R98), or fewer than the parsed prefix (R97). -/
  | wrongLength
  /-- A byte that the layout fixes has another value (R96, R98). -/
  | fixedByte
deriving DecidableEq, Repr

/-- The command codes of R91. -/
def decodeCommand (code : Byte) : Option Instr :=
  match code.toNat with
  | 1 => some .modesel
  | 2 => some .hash
  | 3 => some .crc32
  | 4 => some .encCreq
  | 5 => some .decCresp
  | 6 => some .encHb
  | _ => none

/-- Format CMD8: exactly one byte, all of it the command code (R90). -/
def decodeCmd8 : List Byte → Except DecodeError Instr
  | [code] =>
    match decodeCommand code with
    | some i => .ok i
    | none => .error (.illegalCommand code)
  | _ => .error .wrongLength

/-- The Challenge Request's layout (R96): bytes 2 to 7 are fixed. -/
def decodeCreq (bs : List Byte) : Except DecodeError Instr :=
  if bs.length ≠ 8 then .error .wrongLength
  else if bs.drop 2 ≠ [0x08, 0x00, 0x01, 0x00, 0x00, 0x00] then .error .fixedByte
  else .ok (.pktCreq { opc := Machine.byteAt bs 0, seq := Machine.byteAt bs 1 })

/-- The Challenge Response's layout (R97): no fixed byte; bytes from 16 on are ignored. -/
def decodeCresp (bs : List Byte) : Except DecodeError Instr :=
  let b := Machine.byteAt bs
  if bs.length < 16 then .error .wrongLength
  else .ok (.pktCresp
    { opc := b 0
      reserved := { b0 := b 1, b1 := b 2, b2 := b 3, b3 := b 4, b4 := b 5, b5 := b 6, b6 := b 7 }
      seed := Machine.fromLe32 (Machine.slice bs 8 4)
      srcIp := Machine.fromBe32 (Machine.slice bs 12 4) })

/-- The flag constant's bytes 16 to 19 (R98, R101): bit 0 of byte 17 is the flag, every other bit is fixed. -/
def decodeFlag (bs : List Byte) : Option HbFlag :=
  if bs = [0x00, 0x62, 0x00, 0x2A] then some .first
  else if bs = [0x00, 0x63, 0x00, 0x2A] then some .notFirst
  else none

/-- The Heartbeat Request's layout (R98): bytes 2 and 3, 16 to 19 but for the flag bit, and 32 to 95 are fixed. -/
def decodeHb (bs : List Byte) : Except DecodeError Instr :=
  let b := Machine.byteAt bs
  if bs.length ≠ 96 then .error .wrongLength
  else if Machine.slice bs 2 2 ≠ [0x60, 0x00] ∨ bs.drop 32 ≠ Machine.zeros 64 then .error .fixedByte
  else
    match decodeFlag (Machine.slice bs 16 4) with
    | none => .error .fixedByte
    | some flag => .ok (.pktHb
      { opc := b 0
        seq := b 1
        typeId := b 4
        uidLen := b 5
        mac := { b0 := b 6, b1 := b 7, b2 := b 8, b3 := b 9, b4 := b 10, b5 := b 11 }
        srcIp := Machine.fromBe32 (Machine.slice bs 12 4)
        flag := flag
        seed := Machine.fromLe32 (Machine.slice bs 20 4)
        checksum := { b0 := b 24, b1 := b 25, b2 := b 26, b3 := b 27, b4 := b 28, b5 := b 29, b6 := b 30, b7 := b 31 } })

/-- The decoder: total on any bytes, rejecting by name. -/
def decode (f : Format) (bs : List Byte) : Except DecodeError Instr :=
  match f with
  | .cmd8 => decodeCmd8 bs
  | .wireCreq => decodeCreq bs
  | .wireCresp => decodeCresp bs
  | .wireHb => decodeHb bs

/-! The encoder, from the same tables. -/

/-- The format of an instruction (spec/opcode_table.json). -/
def Instr.format : Instr → Format
  | .modesel => .cmd8
  | .hash => .cmd8
  | .crc32 => .cmd8
  | .encCreq => .cmd8
  | .decCresp => .cmd8
  | .encHb => .cmd8
  | .pktCreq _ => .wireCreq
  | .pktCresp _ => .wireCresp
  | .pktHb _ => .wireHb

/-- The flag constant's bytes 16 to 19 (R98, R101). -/
def encodeFlag : HbFlag → List Byte
  | .first => [0x00, 0x62, 0x00, 0x2A]
  | .notFirst => [0x00, 0x63, 0x00, 0x2A]

/-- The bytes of a Challenge Request (R96). -/
def CreqPacket.bytes (p : CreqPacket) : List Byte := [p.opc, p.seq, 0x08, 0x00, 0x01, 0x00, 0x00, 0x00]

/-- The 16 parsed bytes of a Challenge Response (R97). -/
def CrespPacket.bytes (p : CrespPacket) : List Byte :=
  [p.opc] ++ p.reserved.toList ++ Machine.le32 p.seed ++ Machine.be32 p.srcIp

/-- The 96 bytes of a Heartbeat Request (R98). -/
def HbPacket.bytes (p : HbPacket) : List Byte :=
  [p.opc, p.seq, 0x60, 0x00, p.typeId, p.uidLen] ++ p.mac.toList ++ Machine.be32 p.srcIp ++ encodeFlag p.flag
    ++ Machine.le32 p.seed ++ p.checksum.toList ++ Machine.zeros 64

/-- The bytes of an instruction, the first at the lowest address. -/
def encode : Instr → List Byte
  | .modesel => [0x01]
  | .hash => [0x02]
  | .crc32 => [0x03]
  | .encCreq => [0x04]
  | .decCresp => [0x05]
  | .encHb => [0x06]
  | .pktCreq p => p.bytes
  | .pktCresp p => p.bytes
  | .pktHb p => p.bytes

/-- The command behind a mnemonic of the host script notation. -/
def Mnemonic.instr : Mnemonic → Instr
  | .modesel => .modesel
  | .hash => .hash
  | .crc32 => .crc32
  | .encCreq => .encCreq
  | .decCresp => .decCresp
  | .encHb => .encHb

/-- `code(MNEMONIC)` of R102, the code of R91. -/
def Mnemonic.code (m : Mnemonic) : Byte := Machine.byteAt (encode m.instr) 0

/-! Words as spec/opcode_table.json numbers them: byte k of the instruction is bits 8k+7 to 8k. -/

/-- The `n` lowest bytes of `w`, the low one first. -/
def wordBytes : Nat → Nat → List Byte
  | 0, _ => []
  | n + 1, w => BitVec.ofNat 8 w :: wordBytes n (w / 256)

/-- The number whose bytes are `bs`, the first the low one. -/
def wordOf : List Byte → Nat
  | [] => 0
  | b :: bs => b.toNat + 256 * wordOf bs

/-- The format whose instructions have `nbits` bits in the table. -/
def Format.ofBits (nbits : Nat) : Option Format :=
  match nbits with
  | 8 => some .cmd8
  | 64 => some .wireCreq
  | 128 => some .wireCresp
  | 768 => some .wireHb
  | _ => none

/-- The instruction the decoder reads from an instruction of `nbits` bits whose bits are `w`. -/
def decodeTableWord (nbits w : Nat) : Option Instr :=
  match Format.ofBits nbits with
  | none => none
  | some f =>
    match decode f (wordBytes f.size w) with
    | .ok i => some i
    | .error _ => none

end Sys2Proof
end

