-- ==== Sys2Proof/Machine/Errors.lean ====
section
/-! DEFINITION. The error codes of spec/60_exceptions.md R201: the only status a command leaves (spec/10_state.md R23). -/

namespace Sys2Proof.Machine

/-- The ten error kinds of R201, in the table's order. -/
inductive ErrCode where
  /-- E_MODE_NOT_EXIST: the selector byte is 4 to 255 (R121). -/
  | modeNotExist
  /-- E_INPUT_LENGTH_INVALID: the length is no multiple of 4 (R140). -/
  | inputLengthInvalid
  /-- E_RETAIN_COUNT: fewer than 8 digest bytes collected (R125). -/
  | retainCount
  /-- E_READ_OPCODE: the stream is empty (R161). -/
  | readOpcode
  /-- E_OPCODE_MISMATCH: the stream's first byte is not `P_OPC_CRESP` (R161). -/
  | opcodeMismatch
  /-- E_READ_RESERVED: a short read of the reserved field (R163). -/
  | readReserved
  /-- E_READ_SEED: a short read of challenge_seed (R163). -/
  | readSeed
  /-- E_READ_SRCIP: a short read of source_ip (R163). -/
  | readSrcip
  /-- E_ILLEGAL_CMD: the code started is no command (R205). -/
  | illegalCmd
  /-- E_ILEN_RANGE: ILEN exceeds `P_IBUF_CAP` (R206). -/
  | ilenRange
deriving DecidableEq, Repr

/-- The value of STATUS.ERR for each error (R201). -/
def ErrCode.code : ErrCode → Byte
  | .modeNotExist => 0x01
  | .inputLengthInvalid => 0x02
  | .retainCount => 0x03
  | .readOpcode => 0x10
  | .opcodeMismatch => 0x11
  | .readReserved => 0x12
  | .readSeed => 0x13
  | .readSrcip => 0x14
  | .illegalCmd => 0x80
  | .ilenRange => 0x81

/-- The value of STATUS.ERR after a success: OK (R201). -/
def okCode : Byte := 0x00

end Sys2Proof.Machine
end

