-- ==== Sys2Proof/Config.lean ====
section
/-! DEFINITION. What an instance of HBCORE fixes: its parameters (spec/00_scope.md R9 to R11) as constants that have
no body, and the numeric constants of R13. -/

namespace Sys2Proof

/-- The algorithm tags of `P_DIGEST` (R10). -/
inductive DigestAlg where
  | md5
  | md4
  | sha1
deriving DecidableEq, Repr

namespace Config

/-- `P_OPC_CREQ` (R9): the opcode byte of the Challenge Request, any value. -/
opaque opcCreq : Byte

/-- `P_OPC_CRESP` (R9): the opcode byte of the Challenge Response, any value. -/
opaque opcCresp : Byte

/-- `P_OPC_HB` (R9): the opcode byte of the Heartbeat Request, any value. -/
opaque opcHb : Byte

/-- `P_DIGEST` (R10): total, deterministic, dependent on its two arguments alone; nothing else is assumed, so the
length of a digest is open too. -/
opaque digest : DigestAlg → List Byte → List Byte

/-- How far `P_IBUF_CAP` lies above its least value 16 (R11); the greatest value 65535 is 16 + 65519. -/
opaque ibufSpare : Fin 65520

/-- `P_IBUF_CAP` (R11): the capacity of IBUF in bytes, any integer from 16 to 65535. -/
def ibufCap : Nat := ibufSpare.val + 16

end Config

/-- The parameters the packet functions take as arguments (R9, R10; R21 "parameters of the step relation"). -/
structure Params where
  opcCreq : Byte
  opcCresp : Byte
  opcHb : Byte
  digest : DigestAlg → List Byte → List Byte

namespace Config

/-- The parameters of this instance. -/
def params : Params where
  opcCreq := opcCreq
  opcCresp := opcCresp
  opcHb := opcHb
  digest := digest

end Config

/-- Property `DIGEST_LEN_STD` of R10: 16, 16 and 20 bytes. Never assumed by the model; a statement that needs it
takes it as a hypothesis. -/
def Params.DigestLenStd (P : Params) : Prop :=
  ∀ bytes, (P.digest .md5 bytes).length = 16 ∧ (P.digest .md4 bytes).length = 16 ∧ (P.digest .sha1 bytes).length = 20

namespace Config

/-- `K_NONE_A` (R13). -/
def kNoneA : U32 := 20000711

/-- `K_NONE_B` (R13). -/
def kNoneB : U32 := 126

/-- `K_CREQ_MAGIC` (R13). -/
def kCreqMagic : U32 := 65544

/-- `K_HB_LEN` (R13), written as a u16 into the header (R178). -/
def kHbLen : U16 := 96

/-- `K_FLAG_FIRST` (R13). -/
def kFlagFirst : U32 := 0x2A006200

/-- `K_FLAG_NOTFIRST` (R13). -/
def kFlagNotFirst : U32 := 0x2A006300

/-- `K_MUL` (R13). -/
def kMul : U32 := 19680126

/-- `K_PAD_LEN` (R13). -/
def kPadLen : Nat := 64

/-- The size of OBUF (R12, R46). -/
def obufSize : Nat := 96

end Config

end Sys2Proof
end

