-- ==== Sys2Proof/Machine/Registers.lean ====
section
/-! DEFINITION. The register map of the REG space (spec/10_state.md R48, R24). -/

namespace Sys2Proof.Machine

/-- The registers of R48, in the table's order. -/
inductive Reg where
  | cmd
  | status
  | ilen
  | olen
  | seq
  | typeId
  | uidLen
  | flag
  | srcIp
  | seed
  | mode
  | init
  | mac0
  | mac1
  | mac2
  | mac3
  | mac4
  | mac5
  | rSeed
  | rSrcip
  | rCrc
  | rMode
deriving DecidableEq, Repr

/-- A register's width in bits (R48). -/
def Reg.width : Reg → Nat
  | .cmd => 8
  | .status => 32
  | .ilen => 16
  | .olen => 8
  | .seq => 8
  | .typeId => 8
  | .uidLen => 8
  | .flag => 1
  | .srcIp => 32
  | .seed => 32
  | .mode => 8
  | .init => 32
  | .mac0 => 8
  | .mac1 => 8
  | .mac2 => 8
  | .mac3 => 8
  | .mac4 => 8
  | .mac5 => 8
  | .rSeed => 32
  | .rSrcip => 32
  | .rCrc => 32
  | .rMode => 2

/-- A register's number (R48). -/
def Reg.number : Reg → Byte
  | .cmd => 0x00
  | .status => 0x01
  | .ilen => 0x02
  | .olen => 0x03
  | .seq => 0x10
  | .typeId => 0x11
  | .uidLen => 0x12
  | .flag => 0x13
  | .srcIp => 0x14
  | .seed => 0x15
  | .mode => 0x16
  | .init => 0x17
  | .mac0 => 0x18
  | .mac1 => 0x19
  | .mac2 => 0x1A
  | .mac3 => 0x1B
  | .mac4 => 0x1C
  | .mac5 => 0x1D
  | .rSeed => 0x20
  | .rSrcip => 0x21
  | .rCrc => 0x22
  | .rMode => 0x23

/-- Every register once, in the table's order. -/
def Reg.all : List Reg :=
  [.cmd, .status, .ilen, .olen, .seq, .typeId, .uidLen, .flag, .srcIp, .seed, .mode, .init, .mac0, .mac1, .mac2, .mac3,
    .mac4, .mac5, .rSeed, .rSrcip, .rCrc, .rMode]

/-- The register of a number, if the number is assigned (R48, R62). -/
def Reg.ofNumber (n : Byte) : Option Reg := Reg.all.find? (fun r => r.number == n)

/-- The access classes of R24. -/
inductive Access where
  | rw
  | ro
  | wo
deriving DecidableEq, Repr

/-- A register's access class (R48). -/
def Reg.access : Reg → Access
  | .cmd => .wo
  | .status => .ro
  | .ilen => .rw
  | .olen => .ro
  | .seq => .rw
  | .typeId => .rw
  | .uidLen => .rw
  | .flag => .rw
  | .srcIp => .rw
  | .seed => .rw
  | .mode => .rw
  | .init => .rw
  | .mac0 => .rw
  | .mac1 => .rw
  | .mac2 => .rw
  | .mac3 => .rw
  | .mac4 => .rw
  | .mac5 => .rw
  | .rSeed => .ro
  | .rSrcip => .ro
  | .rCrc => .ro
  | .rMode => .ro

/-- An unassigned register number (R62): it names no register. -/
abbrev UnassignedNumber := { n : Byte // Reg.ofNumber n = none }

end Sys2Proof.Machine
end

