-- ==== Sys2Proof/Machine/HostPort.lean ====
section
/-! DEFINITION. What the host can do (spec/20_memory.md R60, R61; spec/30_encoding.md R102, R103): locations, moves,
script lines and their expansion into operations. What the moves do to the state is in Machine/HostMoves.lean. -/

namespace Sys2Proof.Machine

/-- A location of the three address spaces (R60). An unassigned register number has no width of its own, so the host's
access says the width asked (R62). -/
inductive Loc where
  | reg (r : Reg)
  | unassigned (n : UnassignedNumber) (asked : Nat)
  | ibuf (i : Nat)
  | obuf (i : Nat)
deriving DecidableEq, Repr

/-- The width of a location (R61): a register's own width in REG, 8 bits in IBUF and OBUF. -/
def Loc.width : Loc → Nat
  | .reg r => r.width
  | .unassigned _ asked => asked
  | .ibuf _ => 8
  | .obuf _ => 8

/-- The access class of a location (R24, R45, R46); an unassigned number has none and ignores both ways. -/
def Loc.access : Loc → Access
  | .reg r => r.access
  | .unassigned _ _ => .ro
  | .ibuf _ => .rw
  | .obuf _ => .ro

/-- Unassigned or out of range (R62). -/
def Loc.outside : Loc → Bool
  | .reg _ => false
  | .unassigned _ _ => true
  | .ibuf i => decide (Config.ibufCap ≤ i)
  | .obuf i => decide (Config.obufSize ≤ i)

/-- A move of the host (R20, R61, R240). The value written has exactly the location's width (R24): a wider one cannot
be expressed. -/
inductive HostMove where
  | write (l : Loc) (v : BitVec l.width)
  | read (l : Loc)
  | reset
deriving DecidableEq, Repr

/-- A value the host has read, with the location it came from. -/
structure Reading where
  loc : Loc
  value : BitVec loc.width
deriving DecidableEq, Repr

/-- What a host script is made of once its lines are expanded: a move; `WAIT`'s repeated read of STATUS (R103); the
second half of `MOV`, the write of the value read last (R103). -/
inductive HostOp where
  | move (m : HostMove)
  | poll
  | writeBack (dst : Reg)
deriving DecidableEq, Repr

/-- The lines and pseudo-lines of R102 and R103. -/
inductive Line where
  /-- `WR NAME, v`. -/
  | wr (r : Reg) (v : BitVec r.width)
  /-- `RD NAME`. -/
  | rd (r : Reg)
  /-- `WRB IBUF[i], b`. -/
  | wrb (i : Nat) (b : Byte)
  /-- `RDB OBUF[i]`. -/
  | rdbObuf (i : Nat)
  /-- `RDB IBUF[i]`. -/
  | rdbIbuf (i : Nat)
  /-- `CMD MNEMONIC`. -/
  | cmd (m : Mnemonic)
  /-- `RESET`. -/
  | reset
  /-- `WAIT`. -/
  | wait
  /-- `RUN MNEMONIC`. -/
  | run (m : Mnemonic)
  /-- `LOAD b0 b1 … b(n-1)`. -/
  | load (bytes : List Byte)
  /-- `MOV DST, SRC`. -/
  | mov (dst src : Reg)
  /-- `MAC b0:b1:b2:b3:b4:b5`. -/
  | mac (m : Bytes6)
deriving DecidableEq, Repr

/-- `HostWrite(REG, number(r), v)`. -/
def HostOp.writeReg (r : Reg) (v : BitVec r.width) : HostOp := .move (.write (.reg r) v)

/-- `HostWrite(IBUF, i, b)`. -/
def HostOp.writeIbuf (i : Nat) (b : Byte) : HostOp := .move (.write (.ibuf i) b)

/-- `HostWrite(REG, 0x00, code(MNEMONIC))`. -/
def HostOp.command (m : Mnemonic) : HostOp := HostOp.writeReg .cmd m.code

/-- The byte writes of `LOAD`, from index `i` on. -/
def loadBytes (i : Nat) : List Byte → List HostOp
  | [] => []
  | b :: bs => HostOp.writeIbuf i b :: loadBytes (i + 1) bs

/-- The moves a line stands for (R102) and the expansions of the pseudo-lines (R103). -/
def Line.expand : Line → List HostOp
  | .wr r v => [HostOp.writeReg r v]
  | .rd r => [.move (.read (.reg r))]
  | .wrb i b => [HostOp.writeIbuf i b]
  | .rdbObuf i => [.move (.read (.obuf i))]
  | .rdbIbuf i => [.move (.read (.ibuf i))]
  | .cmd m => [HostOp.command m]
  | .reset => [.move .reset]
  | .wait => [.poll]
  | .run m => [HostOp.command m, .poll]
  | .load bytes => loadBytes 0 bytes ++ [HostOp.writeReg .ilen (BitVec.ofNat 16 bytes.length)]
  | .mov dst src => [.move (.read (.reg src)), .writeBack dst]
  | .mac m =>
    [HostOp.writeReg .mac0 m.b0, HostOp.writeReg .mac1 m.b1, HostOp.writeReg .mac2 m.b2, HostOp.writeReg .mac3 m.b3,
      HostOp.writeReg .mac4 m.b4, HostOp.writeReg .mac5 m.b5]

/-- A whole host script as operations. -/
def assemble (lines : List Line) : List HostOp := lines.flatMap Line.expand

/-- The agents of R20. -/
inductive Agent where
  | host
  | core
deriving DecidableEq, Repr

end Sys2Proof.Machine
end

