-- ==== Sys2Proof/Machine/State.lean ====
section
/-! DEFINITION. The state of HBCORE (spec/10_state.md R21: "The complete state of the block"), the model's own fields
for the host agent and the interleaving of the two agents (assumption log 4), and the state after reset (R240). -/

namespace Sys2Proof.Machine

/-- STATUS (R26). Its zero fields [7:1] and [31:24] are hard-wired (R49) and have no storage: the read of the register
supplies them (Machine/Flags.lean). -/
structure Status where
  /-- [0]: from a CMD write that started a command until `Complete`. -/
  busy : Bool
  /-- [15:8]: the error code of the last completed command. -/
  err : Byte
  /-- [23:16]: the command code last started. -/
  lastop : Byte
deriving DecidableEq, Repr

/-- The contents of a buffer: (index, byte) pairs. An unlisted index reads 0x00, the reset contents of both buffers
(R45, R46, R240). The canonical form is `Memory.wf` of Machine/Ops.lean. -/
abbrev Memory := List Host.Cell

/-- The state. CMD has no storage (R25). -/
structure State where
  status : Status
  ilen : BitVec 16
  olen : BitVec 8
  seq : BitVec 8
  typeId : BitVec 8
  uidLen : BitVec 8
  flag : BitVec 1
  srcIp : BitVec 32
  seed : BitVec 32
  mode : BitVec 8
  init : BitVec 32
  mac0 : BitVec 8
  mac1 : BitVec 8
  mac2 : BitVec 8
  mac3 : BitVec 8
  mac4 : BitVec 8
  mac5 : BitVec 8
  rSeed : BitVec 32
  rSrcip : BitVec 32
  rCrc : BitVec 32
  rMode : BitVec 2
  ibuf : Memory
  obuf : Memory
  /-- The MODEL's: the host operations still to come, the next one first. -/
  script : List HostOp
  /-- The MODEL's: which agent makes each coming move, the next one first (R208). -/
  turns : List Agent
  /-- The MODEL's: what the host has read, newest first. -/
  reads : List Reading
deriving DecidableEq, Repr

/-- Nothing stops the machine: "The block never halts, never locks up and never enters a fault state" (R200). So no
fault has a constructor; an error of a command is a next state (R203). -/
inductive Fault where
deriving DecidableEq, Repr

/-- Why a step may have no meaning. -/
inductive Refusal where
  /-- The instruction's meaning is not written yet: raised by an arm of `exec` only. Safe: no claim about that
  instruction's effect can be proved. No arm raises it. -/
  | notModelled (mnemonic : String)
deriving DecidableEq, Repr

/-- The state after `Reset` (R240), TYPE_ID 0x03 and all else 0; the model's own fields are empty (assumption log 4). -/
def State.reset : State where
  status := { busy := false, err := 0x00, lastop := 0x00 }
  ilen := 0x0000
  olen := 0x00
  seq := 0x00
  typeId := 0x03
  uidLen := 0x00
  flag := 0
  srcIp := 0x00000000
  seed := 0x00000000
  mode := 0x00
  init := 0x00000000
  mac0 := 0x00
  mac1 := 0x00
  mac2 := 0x00
  mac3 := 0x00
  mac4 := 0x00
  mac5 := 0x00
  rSeed := 0x00000000
  rSrcip := 0x00000000
  rCrc := 0x00000000
  rMode := 0
  ibuf := []
  obuf := []
  script := []
  turns := []
  reads := []

end Sys2Proof.Machine
end

