-- ==== Sys2Proof/Machine/Ops.lean ====
section
/-! DEFINITION. The named operations over buffers and registers: `MemRead`, `MemWrite` and register writes
(spec/00_scope.md R16), the start of a command (spec/10_state.md R25), and the two ways a command completes: `raise`
(spec/60_exceptions.md R203), this machine's only exception entry, and success (R211). There is no return from an
exception (R212). -/

namespace Sys2Proof.Machine

/-! Buffers -/

/-- The byte at an index; 0x00 where none is listed. -/
def Memory.read (m : Memory) (a : Nat) : Byte :=
  match m with
  | [] => 0
  | (a', b) :: rest => if a' = a then b else Memory.read rest a

/-- Store a byte that is not 0x00, before the first greater index. -/
def Memory.insert (m : Memory) (a : Nat) (b : Byte) : Memory :=
  match m with
  | [] => [(a, b)]
  | (a', b') :: rest =>
    if a < a' then (a, b) :: (a', b') :: rest
    else if a = a' then (a, b) :: rest
    else (a', b') :: Memory.insert rest a b

/-- Store 0x00: list nothing at the index. -/
def Memory.erase (m : Memory) (a : Nat) : Memory := m.filter (fun c => c.1 != a)

/-- Store a byte. -/
def Memory.write (m : Memory) (a : Nat) (b : Byte) : Memory :=
  if b = 0 then m.erase a else m.insert a b

/-- Store a byte sequence from an index on: `MemWrite` (R16). -/
def Memory.writeBytes (m : Memory) (a : Nat) (bs : List Byte) : Memory :=
  match bs with
  | [] => m
  | b :: rest => Memory.writeBytes (m.write a b) (a + 1) rest

/-- `n` bytes from an index on: `MemRead` (R16). -/
def Memory.readBytes (m : Memory) (a n : Nat) : List Byte := (List.range n).map (fun k => m.read (a + k))

/-- Indices from `lo` on, strictly rising, and no byte 0x00 listed. -/
def Memory.wfFrom (lo : Nat) : Memory → Bool
  | [] => true
  | (a, b) :: rest => decide (lo ≤ a) && (b != 0) && Memory.wfFrom (a + 1) rest

/-- The canonical form: equal contents are equal data. -/
def Memory.wf (m : Memory) : Bool := Memory.wfFrom 0 m

/-- No listed index reaches `size`: the buffer has `size` bytes. -/
def Memory.within (m : Memory) (size : Nat) : Bool := m.all (fun c => decide (c.1 < size))

/-! Starting and completing a command -/

/-- A CMD write of code `c` while not busy (R25): LASTOP and BUSY, nothing else. -/
def State.start (s : State) (c : Byte) : State :=
  { s with status := { s.status with lastop := c, busy := true } }

/-- `raise E` (R203): ERR takes the code, BUSY falls, nothing else changes. -/
def State.raise (s : State) (e : ErrCode) : State :=
  { s with status := { s.status with err := e.code, busy := false } }

/-- The end of a command that succeeded (R211, R210): ERR is 0x00 and BUSY falls. -/
def State.succeed (s : State) : State :=
  { s with status := { s.status with err := okCode, busy := false } }

/-- The end of a `Complete` move begun in `s` (R203, R210, R211): with the outputs written, or with `raise` from the
state the command began in, so that nothing it computed is kept. -/
def State.complete (s : State) (r : Except ErrCode State) : State :=
  match r with
  | .ok t => t.succeed
  | .error e => s.raise e

/-! The outputs of the commands (spec/30_encoding.md R92) -/

/-- `MemWrite(0, n, bytes); x[OLEN] <- n` of HASH, ENC_CREQ and ENC_HB. -/
def State.emit (s : State) (n : Nat) (bytes : List Byte) : State :=
  { s with obuf := s.obuf.writeBytes 0 bytes, olen := BitVec.ofNat 8 n }

/-- `x[R_SEED] <- seed; x[R_SRCIP] <- ip` of DEC_CRESP. -/
def State.storeResponse (s : State) (r : U32 × U32) : State :=
  { s with rSeed := r.1, rSrcip := r.2 }

/-! Registers -/

/-- `x[NAME] <- v` for a register's stored bits (R16), and the start of a command for CMD (R25). STATUS is written
through `start`, `raise` and `succeed` only. -/
def State.writeReg (s : State) (r : Reg) (v : BitVec r.width) : State :=
  match r, v with
  | .cmd, v => s.start v
  | .status, _ => s
  | .ilen, v => { s with ilen := v }
  | .olen, v => { s with olen := v }
  | .seq, v => { s with seq := v }
  | .typeId, v => { s with typeId := v }
  | .uidLen, v => { s with uidLen := v }
  | .flag, v => { s with flag := v }
  | .srcIp, v => { s with srcIp := v }
  | .seed, v => { s with seed := v }
  | .mode, v => { s with mode := v }
  | .init, v => { s with init := v }
  | .mac0, v => { s with mac0 := v }
  | .mac1, v => { s with mac1 := v }
  | .mac2, v => { s with mac2 := v }
  | .mac3, v => { s with mac3 := v }
  | .mac4, v => { s with mac4 := v }
  | .mac5, v => { s with mac5 := v }
  | .rSeed, v => { s with rSeed := v }
  | .rSrcip, v => { s with rSrcip := v }
  | .rCrc, v => { s with rCrc := v }
  | .rMode, v => { s with rMode := v }

end Sys2Proof.Machine
end

