-- ==== Sys2Proof/Machine/Flags.lean ====
section
/-! DEFINITION. HBCORE has no condition code and no arithmetic flag (spec/10_state.md R23). What stands here is the
STATUS word (R26) and the encoding of the operand flag First / NotFirst (R33, R101). -/

namespace Sys2Proof.Machine

/-- STATUS as the host reads it (R26): [31:24] zero, LASTOP, ERR, [7:1] zero, BUSY. -/
def Status.word (st : Status) : BitVec 32 := 0#8 ++ st.lastop ++ st.err ++ 0#7 ++ BitVec.ofBool st.busy

/-- Register FLAG as the encoder reads it (R33): 0 is First, 1 is NotFirst. -/
def flagOfBit (b : BitVec 1) : HbFlag := if b = 0 then .first else .notFirst

/-- The register encoding of a flag (R101). -/
def bitOfFlag : HbFlag → BitVec 1
  | .first => 0
  | .notFirst => 1

/-- `x[NAME]` (R16), the value a read of the register returns; CMD reads 0x00 (R25). -/
def State.readReg (s : State) (r : Reg) : BitVec r.width :=
  match r with
  | .cmd => 0#8
  | .status => s.status.word
  | .ilen => s.ilen
  | .olen => s.olen
  | .seq => s.seq
  | .typeId => s.typeId
  | .uidLen => s.uidLen
  | .flag => s.flag
  | .srcIp => s.srcIp
  | .seed => s.seed
  | .mode => s.mode
  | .init => s.init
  | .mac0 => s.mac0
  | .mac1 => s.mac1
  | .mac2 => s.mac2
  | .mac3 => s.mac3
  | .mac4 => s.mac4
  | .mac5 => s.mac5
  | .rSeed => s.rSeed
  | .rSrcip => s.rSrcip
  | .rCrc => s.rCrc
  | .rMode => s.rMode

end Sys2Proof.Machine
end

