-- ==== Sys2Proof/Machine/Checksum.lean ====
section
/-! DEFINITION. The checksum strategy as pure functions (spec/40_checksum_strategy.md part 1): mode selector, retain
tables, synthetic digest, extraction. -/

namespace Sys2Proof.Machine

/-- `Mode` (R120), a closed enumeration. -/
inductive Mode where
  | none
  | md5
  | md4
  | sha1
deriving DecidableEq, Repr

/-- The number of a mode, which is the selector byte that selects it (R120, R43). -/
def Mode.number : Mode → BitVec 2
  | .none => 0
  | .md5 => 1
  | .md4 => 2
  | .sha1 => 3

/-- `from_mode(b)` (R121). -/
def fromMode (b : Byte) : Except ErrCode Mode :=
  match b.toNat with
  | 0 => .ok .none
  | 1 => .ok .md5
  | 2 => .ok .md4
  | 3 => .ok .sha1
  | _ => .error .modeNotExist

/-- `RETAIN(mode)` (R122), the eight digest offsets in the table's order. -/
def retain : Mode → List Nat
  | .none => [0, 1, 2, 3, 4, 5, 6, 7]
  | .md5 => [2, 3, 8, 9, 5, 6, 13, 14]
  | .md4 => [1, 2, 8, 9, 4, 5, 11, 12]
  | .sha1 => [2, 3, 9, 10, 5, 6, 15, 16]

/-- `SYNTH` (R123), the synthetic digest of mode None. -/
def synth : List Byte := le32 Config.kNoneA ++ le32 Config.kNoneB

/-- `raw_digest(mode, input)` (R124). -/
def rawDigest (P : Params) (m : Mode) (input : List Byte) : List Byte :=
  match m with
  | .none => synth
  | .md5 => P.digest .md5 input
  | .md4 => P.digest .md4 input
  | .sha1 => P.digest .sha1 input

/-- The loop of R125: the bytes of `d` at the offsets of `mode`, in table order, an offset at or past the end
skipped. -/
def collect (m : Mode) (d : List Byte) : List Byte := (retain m).filterMap (fun o => d[o]?)

/-- Steps 2 and 3 of R125 on a digest `d`: the eight retained bytes, or E_RETAIN_COUNT if there are not eight. -/
def extract (m : Mode) (d : List Byte) : Except ErrCode (List Byte) :=
  if (collect m d).length = 8 then .ok (collect m d) else .error .retainCount

/-- `hash(mode, input)` (R125). -/
def hash (P : Params) (m : Mode) (input : List Byte) : Except ErrCode (List Byte) :=
  extract m (rawDigest P m input)

end Sys2Proof.Machine
end

