-- ==== Sys2Proof/Machine/WordXor.lean ====
section
/-! DEFINITION. The fallback word-XOR checksum as pure functions (spec/41_fallback_xor.md part 1). -/

namespace Sys2Proof.Machine

/-- `word(bytes, k)` (R141): the k-th little-endian word. -/
def wordAt (bytes : List Byte) (k : Nat) : U32 := fromLe32 (slice bytes (4 * k) 4)

/-- The loop of R140: exclusive or of the words 0, 1, …, n-1 onto `acc`. -/
def xorWords (bytes : List Byte) (n : Nat) (acc : U32) : U32 :=
  (List.range n).foldl (fun a k => a ^^^ wordAt bytes k) acc

/-- `crc32(bytes, initial)` (R140). -/
def crc32 (bytes : List Byte) (initial : U32) : Except ErrCode U32 :=
  if bytes.length % 4 ≠ 0 then .error .inputLengthInvalid
  else .ok (xorWords bytes (bytes.length / 4) initial)

end Sys2Proof.Machine
end

