-- ==== Sys2Proof/Machine/Packets.lean ====
section
/-! DEFINITION. The packet encoders and the packet decoder as pure functions of the parameters
(spec/42_challenge_request.md, 43_challenge_response.md, 44_heartbeat_request.md, their pure-function parts). -/

namespace Sys2Proof.Machine

/-! Challenge Request -/

/-- `creq(seq)` (R150); bytes 6 and 7 are the spec's decision D13. -/
def creq (P : Params) (seq : Byte) : List Byte :=
  [P.opcCreq, seq] ++ le32 Config.kCreqMagic ++ [0x00, 0x00]

/-! Challenge Response -/

/-- `validate_packet(S, pos)` (R161): the position after the opcode byte. -/
def validatePacket (P : Params) (S : List Byte) (pos : Nat) : Except ErrCode Nat :=
  if S.length - pos < 1 then .error .readOpcode
  else if byteAt S pos ≠ P.opcCresp then .error .opcodeMismatch
  else .ok (pos + 1)

/-- `read_bytes(S, pos, n, E)` (R162): the field's bytes and the position after it. -/
def readBytes (S : List Byte) (pos n : Nat) (e : ErrCode) : Except ErrCode (List Byte × Nat) :=
  if S.length - pos < n then .error e
  else .ok (slice S pos n, pos + n)

/-- `cresp(S)` (R163): challenge_seed (little-endian) and source_ip (big-endian). -/
def cresp (P : Params) (S : List Byte) : Except ErrCode (U32 × U32) := do
  let p1 ← validatePacket P S 0
  let (_, p2) ← readBytes S p1 7 .readReserved
  let (sb, p3) ← readBytes S p2 4 .readSeed
  let (ib, _) ← readBytes S p3 4 .readSrcip
  return (fromLe32 sb, fromBe32 ib)

/-! Heartbeat Request -/

/-- A heartbeat request `q` (R175). -/
structure Request where
  seq : Byte
  typeId : Byte
  uidLen : Byte
  mac : Bytes6
  ip : U32
  flag : HbFlag
  seed : U32
deriving DecidableEq, Repr

/-- `flagconst` (R180). -/
def flagConst : HbFlag → U32
  | .first => Config.kFlagFirst
  | .notFirst => Config.kFlagNotFirst

/-- `hb_header(q)` (R178). -/
def hbHeader (P : Params) (q : Request) : List Byte := [P.opcHb, q.seq] ++ le16 Config.kHbLen

/-- `hb_content(q)` (R179). -/
def hbContent (q : Request) : List Byte :=
  [q.typeId, q.uidLen] ++ q.mac.toList ++ be32 q.ip ++ le32 (flagConst q.flag) ++ le32 q.seed

/-- `hb_mode(q)` (R181): `from_mode` of the unsigned seed modulo 3. -/
def hbMode (q : Request) : Except ErrCode Mode := fromMode (BitVec.ofNat 8 (q.seed.toNat % 3))

/-- `hb_foot1(q)` (R181): the hash of the seed's four bytes, little-endian (D26). -/
def hbFoot1 (P : Params) (q : Request) : Except ErrCode (List Byte) := do
  let m ← hbMode q
  hash P m (le32 q.seed)

/-- The fallback value of mode None (R182): the fold of header, content and the eight hash bytes, multiplied, then
four zero bytes. -/
def hbFallback (P : Params) (q : Request) (f1 : List Byte) : Except ErrCode (List Byte) := do
  let c ← crc32 (hbHeader P q ++ hbContent q ++ f1) 0
  return le32 (mul32 c Config.kMul) ++ zeros 4

/-- `hb_foot2(q)` (R182): the fallback only in mode None, else the hash bytes as they stand. -/
def hbFoot2 (P : Params) (q : Request) : Except ErrCode (List Byte) := do
  let f1 ← hbFoot1 P q
  let m ← hbMode q
  if m = .none then hbFallback P q f1 else return f1

/-- `hb_footer(q)` (R183). -/
def hbFooter (P : Params) (q : Request) : Except ErrCode (List Byte) := do
  let f2 ← hbFoot2 P q
  return f2 ++ zeros Config.kPadLen

/-- `hb(q)` (R183): header, content, footer. -/
def hb (P : Params) (q : Request) : Except ErrCode (List Byte) := do
  let footer ← hbFooter P q
  return hbHeader P q ++ hbContent q ++ footer

end Sys2Proof.Machine

namespace Sys2Proof

/-- The heartbeat request a packet's operand fields stand for (R175, R98). -/
def HbPacket.request (p : HbPacket) : Machine.Request where
  seq := p.seq
  typeId := p.typeId
  uidLen := p.uidLen
  mac := p.mac
  ip := p.srcIp
  flag := p.flag
  seed := p.seed

end Sys2Proof
end

