-- ==== Sys2Proof/Machine/Operands.lean ====
section
/-! DEFINITION. The implicit operands of the commands (spec/30_encoding.md R92). -/

namespace Sys2Proof.Machine

/-- The first test of HASH, CRC32 and DEC_CRESP (R206). -/
def State.checkIlen (s : State) : Except ErrCode Unit :=
  if Config.ibufCap < s.ilen.toNat then .error .ilenRange else .ok ()

/-- `MemRead(0, x[ILEN])`: the input of HASH and CRC32 and the stream of DEC_CRESP (R27, R160). -/
def State.input (s : State) : List Byte := s.ibuf.readBytes 0 s.ilen.toNat

/-- The heartbeat request of the operand registers (R177). -/
def State.request (s : State) : Request where
  seq := s.seq
  typeId := s.typeId
  uidLen := s.uidLen
  mac := { b0 := s.mac0, b1 := s.mac1, b2 := s.mac2, b3 := s.mac3, b4 := s.mac4, b5 := s.mac5 }
  ip := s.srcIp
  flag := flagOfBit s.flag
  seed := s.seed

end Sys2Proof.Machine
end

