-- ==== Sys2Proof/Machine/ChallengeRequest.lean ====
section
/-! DEFINITION. The command ENC_CREQ (spec/42_challenge_request.md R152). -/

namespace Sys2Proof.Machine

/-- ENC_CREQ (R152): no error path. -/
def execEncCreq (s : State) : Host.Outcome State Fault Refusal :=
  .next (s.complete (.ok (s.emit 8 (creq Config.params s.seq))))

end Sys2Proof.Machine
end

