-- ==== Sys2Proof/Machine/ChallengeResponse.lean ====
section
/-! DEFINITION. The command DEC_CRESP (spec/43_challenge_response.md R164). -/

namespace Sys2Proof.Machine

/-- DEC_CRESP (R164). -/
def execDecCresp (s : State) : Host.Outcome State Fault Refusal :=
  .next (s.complete (do
    s.checkIlen
    let r ← cresp Config.params s.input
    return s.storeResponse r))

end Sys2Proof.Machine
end

