-- ==== Sys2Proof/Machine/ChecksumStrategy.lean ====
section
/-! DEFINITION. The commands MODESEL and HASH (spec/40_checksum_strategy.md R128, R129). -/

namespace Sys2Proof.Machine

/-- MODESEL (R128). -/
def execModesel (s : State) : Host.Outcome State Fault Refusal :=
  .next (s.complete (do
    let m ← fromMode s.mode
    return { s with rMode := m.number }))

/-- HASH (R129). -/
def execHash (s : State) : Host.Outcome State Fault Refusal :=
  .next (s.complete (do
    s.checkIlen
    let m ← fromMode s.mode
    let out ← hash Config.params m s.input
    return s.emit 8 out))

end Sys2Proof.Machine
end

