-- ==== Sys2Proof/Machine/FallbackXor.lean ====
section
/-! DEFINITION. The command CRC32 (spec/41_fallback_xor.md R142). -/

namespace Sys2Proof.Machine

/-- CRC32 (R142). -/
def execCrc32 (s : State) : Host.Outcome State Fault Refusal :=
  .next (s.complete (do
    s.checkIlen
    let c ← crc32 s.input s.init
    return { s with rCrc := c }))

end Sys2Proof.Machine
end

