-- ==== Sys2Proof/Machine/Heartbeat.lean ====
section
/-! DEFINITION. The command ENC_HB (spec/44_heartbeat_request.md R177). -/

namespace Sys2Proof.Machine

/-- ENC_HB (R177). -/
def execEncHb (s : State) : Host.Outcome State Fault Refusal :=
  .next (s.complete (do
    let pkt ← hb Config.params s.request
    return s.emit 96 pkt))

end Sys2Proof.Machine
end

