-- ==== Sys2Proof/Machine/Wire.lean ====
section
/-! DEFINITION. The meanings of the three packets of format WIRE (spec/30_encoding.md R96, R97, R98, R104): what the
row's `semantics_rule` does with that packet, its operand fields taken from the packet (assumption log 6). The opcode
byte and the checksum of an emitted packet are the block's to supply (R150, R178, R181, R182), so the packet's own are
not operands (assumption log 7). -/

namespace Sys2Proof.Machine

/-- PKT_CREQ: R152 emits the Challenge Request with the packet's sequence number. -/
def execPktCreq (p : CreqPacket) (s : State) : Host.Outcome State Fault Refusal :=
  .next (s.complete (.ok (s.emit 8 (creq Config.params p.seq))))

/-- PKT_CRESP: R164 parses the packet's sixteen bytes, which always fit IBUF (R11). -/
def execPktCresp (p : CrespPacket) (s : State) : Host.Outcome State Fault Refusal :=
  .next (s.complete (do
    let r ← cresp Config.params p.bytes
    return s.storeResponse r))

/-- PKT_HB: R177 emits the Heartbeat Request of the packet's operand fields. -/
def execPktHb (p : HbPacket) (s : State) : Host.Outcome State Fault Refusal :=
  .next (s.complete (do
    let pkt ← hb Config.params p.request
    return s.emit 96 pkt))

end Sys2Proof.Machine
end

