-- ==== Sys2Proof/Machine/Dispatch.lean ====
section
/-! DEFINITION. The meaning of every instruction of spec/opcode_table.json, one arm each. -/

namespace Sys2Proof.Machine

def exec (i : Instr) (s : State) : Host.Outcome State Fault Refusal :=
  match i with
  | .modesel => Sys2Proof.Machine.execModesel s
  | .hash => Sys2Proof.Machine.execHash s
  | .crc32 => Sys2Proof.Machine.execCrc32 s
  | .encCreq => Sys2Proof.Machine.execEncCreq s
  | .decCresp => Sys2Proof.Machine.execDecCresp s
  | .encHb => Sys2Proof.Machine.execEncHb s
  | .pktCreq p => Sys2Proof.Machine.execPktCreq p s
  | .pktCresp p => Sys2Proof.Machine.execPktCresp p s
  | .pktHb p => Sys2Proof.Machine.execPktHb p s

end Sys2Proof.Machine
end

