-- ==== Sys2Proof/Machine/HostMoves.lean ====
section
/-! DEFINITION. What the host's moves do (spec/20_memory.md R61, R62, R63; spec/70_reset_and_hazards.md R240) and how the
host performs the next operation of its script (spec/30_encoding.md R102, R103). -/

namespace Sys2Proof.Machine

/-- `HostRead` (R61): 0 outside, else the location's current value; nothing changes (R70). -/
def State.hostRead (s : State) (l : Loc) : BitVec l.width :=
  match l with
  | .reg r => s.readReg r
  | .unassigned _ _ => 0
  | .ibuf i => if i < Config.ibufCap then s.ibuf.read i else 0#8
  | .obuf i => if i < Config.obufSize then s.obuf.read i else 0#8

/-- Tests 4 and 5 of R61: a CMD write starts a command, any other location takes the value. -/
def State.store (s : State) (l : Loc) (v : BitVec l.width) : State :=
  match l, v with
  | .reg r, v => s.writeReg r v
  | .unassigned _ _, _ => s
  | .ibuf i, v => { s with ibuf := s.ibuf.write i v }
  | .obuf i, v => { s with obuf := s.obuf.write i v }

/-- `HostWrite` (R61), its tests in order: outside, read-only, busy, then the write. -/
def State.hostWrite (s : State) (l : Loc) (v : BitVec l.width) : State :=
  if l.outside then s
  else if l.access = .ro then s
  else if s.status.busy then s
  else s.store l v

/-- The `Reset` move (R240, R242): every piece of the block's state at its reset value; the host agent's own fields
are no part of the block (assumption log 8). -/
def State.resetMove (s : State) : State :=
  { State.reset with script := s.script, turns := s.turns, reads := s.reads }

/-- One move of the host; what it reads it keeps. -/
def State.perform (s : State) (m : HostMove) : State :=
  match m with
  | .write l v => s.hostWrite l v
  | .read l => { s with reads := { loc := l, value := s.hostRead l } :: s.reads }
  | .reset => s.resetMove

/-- `WAIT` (R103): one read of STATUS; it stays in the script while the value read has BUSY = 1. -/
def State.pollStatus (s : State) : State :=
  let t := s.perform (.read (.reg .status))
  if s.status.word.getLsbD 0 then { t with script := .poll :: t.script } else t

/-- The second half of `MOV` (R103): write the value read last; with nothing read there is nothing to write. -/
def State.writeBack (s : State) (dst : Reg) : State :=
  match s.reads with
  | [] => s
  | r :: _ => s.hostWrite (.reg dst) (r.value.setWidth (Loc.reg dst).width)

/-- One operation of a script that has been taken off it. -/
def State.performOp (s : State) (op : HostOp) : State :=
  match op with
  | .move m => s.perform m
  | .poll => s.pollStatus
  | .writeBack dst => s.writeBack dst

/-- The host's move: the next operation of its script; with an empty script the host is idle. -/
def State.hostMove (s : State) : State :=
  match s.script with
  | [] => s
  | op :: rest => State.performOp { s with script := rest } op

end Sys2Proof.Machine
end

