-- ==== Sys2Proof/Machine/Complete.lean ====
section
/-! DEFINITION. The core's move `Complete` (spec/60_exceptions.md R210), whose turn it is (R20, R208), and how an
instruction of the opcode table is placed where the core takes it from. -/

namespace Sys2Proof.Machine

/-- `Complete` (R210) on a started command: the meaning of the code in LASTOP, or E_ILLEGAL_CMD (R205). -/
def State.completeMove (s : State) : Host.Outcome State Fault Refusal :=
  match decode .cmd8 [s.status.lastop] with
  | .ok i => exec i s
  | .error _ => .next (s.raise .illegalCmd)

/-- The core's turn: `Complete`, enabled exactly when BUSY = 1 (R20, R210); else the turn passes. -/
def State.coreMove (s : State) : Host.Outcome State Fault Refusal :=
  if s.status.busy then s.completeMove else .next s

/-- Whose turn it is: the next of `turns`; with none listed, the core completes what is started and otherwise the
host moves (assumption log 11). -/
def State.nextAgent (s : State) : Agent :=
  match s.turns with
  | a :: _ => a
  | [] => if s.status.busy then .core else .host

/-- The turn taken off the list. -/
def State.takeTurn (s : State) : State := { s with turns := s.turns.tail }

/-! Placing an instruction (assumption log 5) -/

/-- A command code started, with the core to move next. -/
def State.placeCommand (s : State) (code : Byte) : State :=
  { s.start code with turns := [] }

/-- A Challenge Request to emit: its sequence number in SEQ, ENC_CREQ started. -/
def State.placeCreq (s : State) (p : CreqPacket) : State :=
  State.placeCommand { s with seq := p.seq } 0x04

/-- A Challenge Response to parse: its bytes loaded into IBUF, ILEN at 16, DEC_CRESP started. -/
def State.placeCresp (s : State) (p : CrespPacket) : State :=
  State.placeCommand { s with ibuf := s.ibuf.writeBytes 0 p.bytes, ilen := 16 } 0x05

/-- A Heartbeat Request to emit: its operand fields in the operand registers, ENC_HB started. -/
def State.placeHb (s : State) (p : HbPacket) : State :=
  State.placeCommand
    { s with
      seq := p.seq, typeId := p.typeId, uidLen := p.uidLen
      mac0 := p.mac.b0, mac1 := p.mac.b1, mac2 := p.mac.b2, mac3 := p.mac.b3, mac4 := p.mac.b4, mac5 := p.mac.b5
      srcIp := p.srcIp, flag := bitOfFlag p.flag, seed := p.seed } 0x06

/-- An instruction placed so that the core's next move runs it. -/
def State.place (s : State) (i : Instr) : State :=
  match i with
  | .modesel => s.placeCommand 0x01
  | .hash => s.placeCommand 0x02
  | .crc32 => s.placeCommand 0x03
  | .encCreq => s.placeCommand 0x04
  | .decCresp => s.placeCommand 0x05
  | .encHb => s.placeCommand 0x06
  | .pktCreq p => s.placeCreq p
  | .pktCresp p => s.placeCresp p
  | .pktHb p => s.placeHb p

/-- The bits of an instruction placed: what they decode to; an 8-bit code with no command is started all the same
(R93); other bits are no instruction and place nothing. -/
def State.placeWord (s : State) (nbits w : Nat) : State :=
  match decodeTableWord nbits w with
  | some i => s.place i
  | none => if nbits = 8 then s.placeCommand (BitVec.ofNat 8 w) else s

end Sys2Proof.Machine
end

