-- ==== Sys2Proof/Machine/Step.lean ====
section
/-! DEFINITION. One step of HBCORE: one move of one of its two agents (spec/10_state.md R20, spec/60_exceptions.md R208). -/

namespace Sys2Proof.Machine

/-- One move of the agent whose turn it is. -/
def step (s : State) : Host.Outcome State Fault Refusal :=
  match s.nextAgent with
  | .core => s.takeTurn.coreMove
  | .host => .next s.takeTurn.hostMove

/-- The instruction whose bits are `w` placed where the very next step runs it (assumption log 5). -/
def State.withFetchWord (s : State) (nbits w : Nat) : State := s.placeWord nbits w

end Sys2Proof.Machine
end

