-- ==== Sys2Proof/WellFormed.lean ====
section
/-! DEFINITION. Which instructions are well formed on this instance. A command has no operand field, so every command
is (spec/30_encoding.md R90, R92). A packet is well formed if the fields the block itself supplies are what this instance
supplies (R96, R98); a Challenge Response may hold any value in every field (R97, R161, R166). -/

namespace Sys2Proof

/-- Byte 0 of an emitted Challenge Request is `P_OPC_CREQ` (R96). -/
def CreqPacket.WellFormed (P : Params) (p : CreqPacket) : Prop := p.opc = P.opcCreq

/-- Byte 0 of an emitted Heartbeat Request is `P_OPC_HB`, and bytes 24 to 31 are the checksum or derived value of its
other fields (R98, R181, R182). -/
def HbPacket.WellFormed (P : Params) (p : HbPacket) : Prop :=
  p.opc = P.opcHb ∧ Machine.hbFoot2 P p.request = .ok p.checksum.toList

/-- An instruction that this instance can run as it is written. -/
def Instr.WellFormed (P : Params) : Instr → Prop
  | .modesel => True
  | .hash => True
  | .crc32 => True
  | .encCreq => True
  | .decCresp => True
  | .encHb => True
  | .pktCreq p => p.WellFormed P
  | .pktCresp _ => True
  | .pktHb p => p.WellFormed P

end Sys2Proof
end

