-- ==== Sys2Proof/Safety.lean ====
section
/-! DEFINITION. The terms in which claims are stated: safe outcomes, the invariants of the state, the ways a command
ends, what counts as unchanged, and the spec's closed forms written out byte by byte, apart from the model's own
functions. -/

namespace Sys2Proof.Machine

/-! Safe runs -/

/-- The machine goes on (spec/60_exceptions.md R200). -/
def Goes (o : Host.Outcome State Fault Refusal) : Prop := ∃ t, o = .next t

/-! How a command ends, and what it leaves -/

/-- STATUS after a completion with a code (R203, R211): ERR is the code, BUSY is 0, LASTOP stays; nothing else
changes. -/
def State.ended (s : State) (code : Byte) : State :=
  { s with status := { busy := false, err := code, lastop := s.status.lastop } }

/-- A buffer after a byte sequence was stored from index 0 on: those bytes there, every other index as before. -/
def Memory.Overwritten (old new : Memory) (bytes : List Byte) : Prop :=
  ∀ i, new.read i = if i < bytes.length then byteAt bytes i else old.read i

/-- A command that stored `bytes` in OBUF from index 0 on, with OLEN their number, and changed nothing else but STATUS
(R211): the machine goes on with ERR 0x00. -/
def EmitsOnly (o : Host.Outcome State Fault Refusal) (s : State) (bytes : List Byte) : Prop :=
  ∃ m, o = .next (({ s with obuf := m, olen := BitVec.ofNat 8 bytes.length } : State).ended 0x00) ∧
    s.obuf.Overwritten m bytes

/-- Two states with the same block: all the state the spec names (R21); the host agent's fields may differ. -/
def SameBlock (s t : State) : Prop :=
  t = { s with script := t.script, turns := t.turns, reads := t.reads }

/-! Invariants -/

/-- Both buffers are in canonical form and list no index outside their size (R45, R46). -/
def State.BuffersCanonical (s : State) : Prop :=
  s.ibuf.wf = true ∧ s.ibuf.within Config.ibufCap = true ∧ s.obuf.wf = true ∧ s.obuf.within Config.obufSize = true

/-- The values STATUS.ERR can have (R201). -/
def errValues : List Byte := [0x00, 0x01, 0x02, 0x03, 0x10, 0x11, 0x12, 0x13, 0x14, 0x80, 0x81]

/-- OLEN is 0, 8 or 96 (R28) and ERR is a code of R201. -/
def State.LegalOlenErr (s : State) : Prop :=
  (s.olen = 0 ∨ s.olen = 8 ∨ s.olen = 96) ∧ s.status.err ∈ errValues

/-- The codes a command can complete with, one row of R204 for each command code. -/
def errRow (op : Byte) : List Byte :=
  if op = 0x01 then [0x00, 0x01]
  else if op = 0x02 then [0x00, 0x01, 0x03, 0x81]
  else if op = 0x03 then [0x00, 0x02, 0x81]
  else if op = 0x04 then [0x00]
  else if op = 0x05 then [0x00, 0x10, 0x11, 0x12, 0x13, 0x14, 0x81]
  else if op = 0x06 then [0x00, 0x03]
  else [0x80]

/-- While no command is under way, ERR is one the command in LASTOP can complete with, or nothing was started since
reset (R204, R242). -/
def State.ErrFitsLastop (s : State) : Prop :=
  s.status.busy = false → s.status.err ∈ errRow s.status.lastop ∨ (s.status.err = 0x00 ∧ s.status.lastop = 0x00)

/-! The operands and the outputs of a command (spec/30_encoding.md R92) -/

/-- The bytes IBUF[0 .. n-1] agree. -/
def AgreeIbuf (s t : State) (n : Nat) : Prop := ∀ i, i < n → s.ibuf.read i = t.ibuf.read i

/-- Two states agree on every operand an instruction reads (column "reads" of R92; a packet reads none). -/
def AgreeOnReads (i : Instr) (s t : State) : Prop :=
  match i with
  | .modesel => s.mode = t.mode
  | .hash => s.mode = t.mode ∧ s.ilen = t.ilen ∧ AgreeIbuf s t s.ilen.toNat
  | .crc32 => s.init = t.init ∧ s.ilen = t.ilen ∧ AgreeIbuf s t s.ilen.toNat
  | .encCreq => s.seq = t.seq
  | .decCresp => s.ilen = t.ilen ∧ AgreeIbuf s t (min s.ilen.toNat 16)
  | .encHb => s.seq = t.seq ∧ s.typeId = t.typeId ∧ s.uidLen = t.uidLen ∧ s.mac0 = t.mac0 ∧ s.mac1 = t.mac1 ∧
      s.mac2 = t.mac2 ∧ s.mac3 = t.mac3 ∧ s.mac4 = t.mac4 ∧ s.mac5 = t.mac5 ∧ s.srcIp = t.srcIp ∧ s.flag = t.flag ∧
      s.seed = t.seed
  | .pktCreq _ => True
  | .pktCresp _ => True
  | .pktHb _ => True

/-- Two states agree on OBUF[0 .. n-1] and OLEN. -/
def AgreeObuf (s t : State) (n : Nat) : Prop := s.olen = t.olen ∧ ∀ i, i < n → s.obuf.read i = t.obuf.read i

/-- Two states agree on every output of an instruction (column "writes on success" of R92). -/
def AgreeOnWrites (i : Instr) (s t : State) : Prop :=
  match i with
  | .modesel => s.rMode = t.rMode
  | .hash => AgreeObuf s t 8
  | .crc32 => s.rCrc = t.rCrc
  | .encCreq => AgreeObuf s t 8
  | .decCresp => s.rSeed = t.rSeed ∧ s.rSrcip = t.rSrcip
  | .encHb => AgreeObuf s t 96
  | .pktCreq _ => AgreeObuf s t 8
  | .pktCresp _ => s.rSeed = t.rSeed ∧ s.rSrcip = t.rSrcip
  | .pktHb _ => AgreeObuf s t 96

/-! Closed forms of the spec, apart from the model's functions -/

/-- Byte k of a 32-bit value, byte 0 the least significant (R14). -/
def octet (v : U32) (k : Nat) : Byte := BitVec.ofNat 8 (v.toNat / 256 ^ k)

/-- The number b0 + 256*b1 + 65536*b2 + 16777216*b3 (R15, R141). -/
def littleWord (b0 b1 b2 b3 : Byte) : U32 :=
  BitVec.ofNat 32 (b0.toNat + 256 * b1.toNat + 65536 * b2.toNat + 16777216 * b3.toNat)

/-- The input of a command: IBUF[0 .. ILEN-1] (R27). -/
def inputBytes (s : State) : List Byte := (List.range s.ilen.toNat).map (fun i => s.ibuf.read i)

/-- Bytes 0 to 23 of a Heartbeat Request, one line of the table of R98 after the other. -/
def heartbeatHead (opc seq typeId uidLen : Byte) (mac : Bytes6) (ip : U32) (flag : HbFlag) (seed : U32) : List Byte :=
  [opc, seq, 0x60, 0x00, typeId, uidLen, mac.b0, mac.b1, mac.b2, mac.b3, mac.b4, mac.b5,
    octet ip 3, octet ip 2, octet ip 1, octet ip 0,
    0x00, (match flag with | .first => 0x62 | .notFirst => 0x63), 0x00, 0x2A,
    octet seed 0, octet seed 1, octet seed 2, octet seed 3]

/-- The fold `c` of mode None in the closed form of R184: W0 xor … xor W7. -/
def heartbeatFold (opc seq typeId uidLen : Byte) (mac : Bytes6) (ip : U32) (flag : HbFlag) (seed : U32) : U32 :=
  littleWord opc seq 0x60 0x00 ^^^ littleWord typeId uidLen mac.b0 mac.b1 ^^^ littleWord mac.b2 mac.b3 mac.b4 mac.b5 ^^^
    littleWord (octet ip 3) (octet ip 2) (octet ip 1) (octet ip 0) ^^^
    (match flag with | .first => 0x2A006200 | .notFirst => 0x2A006300) ^^^ seed ^^^ 20000711 ^^^ 126

/-- Bytes 24 to 31 of mode None (R182): the product modulo 2^32, little-endian, and four zero bytes. -/
def heartbeatFallback (c : U32) : List Byte :=
  let p : U32 := BitVec.ofNat 32 (c.toNat * 19680126)
  [octet p 0, octet p 1, octet p 2, octet p 3, 0x00, 0x00, 0x00, 0x00]

/-- The eight bytes the MD5 row of R122 keeps of a digest. -/
def keptMd5 (d : List Byte) : List Byte :=
  [byteAt d 2, byteAt d 3, byteAt d 8, byteAt d 9, byteAt d 5, byteAt d 6, byteAt d 13, byteAt d 14]

/-- The eight bytes the MD4 row of R122 keeps of a digest. -/
def keptMd4 (d : List Byte) : List Byte :=
  [byteAt d 1, byteAt d 2, byteAt d 8, byteAt d 9, byteAt d 4, byteAt d 5, byteAt d 11, byteAt d 12]

/-- The eight bytes the SHA1 row of R122 keeps of a digest. -/
def keptSha1 (d : List Byte) : List Byte :=
  [byteAt d 2, byteAt d 3, byteAt d 9, byteAt d 10, byteAt d 5, byteAt d 6, byteAt d 15, byteAt d 16]

/-- The seed's four bytes, least significant first: the heartbeat's hash input (R181). -/
def seedBytes (seed : U32) : List Byte := [octet seed 0, octet seed 1, octet seed 2, octet seed 3]

/-- How emitting a heartbeat whose seed selects MD5 or MD4 ends (R177, R182, R183, R185): the 96 bytes in OBUF, or
E_RETAIN_COUNT where the digest of the seed is shorter than the retain table needs. -/
def HeartbeatDigestEnds (o : Host.Outcome State Fault Refusal) (s : State) (head : List Byte) (seed : U32) : Prop :=
  let md5 := Config.digest .md5 (seedBytes seed)
  let md4 := Config.digest .md4 (seedBytes seed)
  let pad : List Byte := List.replicate 64 0x00
  if seed.toNat % 3 = 1 then
    (if 15 ≤ md5.length then EmitsOnly o s (head ++ keptMd5 md5 ++ pad) else o = .next (s.ended 0x03))
  else
    (if 13 ≤ md4.length then EmitsOnly o s (head ++ keptMd4 md4 ++ pad) else o = .next (s.ended 0x03))

/-- The six MAC registers as one field, MAC0 first (R38). -/
def macOf (s : State) : Bytes6 :=
  { b0 := s.mac0, b1 := s.mac1, b2 := s.mac2, b3 := s.mac3, b4 := s.mac4, b5 := s.mac5 }

/-- The operand FLAG: 0 is First, 1 is NotFirst (R33). -/
def flagOf (s : State) : HbFlag := if s.flag = 0 then .first else .notFirst

/-- The 24 header and content bytes of the heartbeat of the operand registers (R98, R177). -/
def headOf (s : State) : List Byte :=
  heartbeatHead Config.opcHb s.seq s.typeId s.uidLen (macOf s) s.srcIp (flagOf s) s.seed

/-- The 24 header and content bytes of the heartbeat of a packet's operand fields, with this instance's opcode (R98). -/
def headOfPacket (p : HbPacket) : List Byte :=
  heartbeatHead Config.opcHb p.seq p.typeId p.uidLen p.mac p.srcIp p.flag p.seed

/-! Host turns -/

/-- The host is to move and `op` is the next operation of its script. -/
def HostsNext (s : State) (op : HostOp) (rest : List HostOp) : Prop := s.nextAgent = .host ∧ s.script = op :: rest

/-- The state once the turn and the operation are taken off their lists; the block is untouched. -/
def State.afterTurn (s : State) (rest : List HostOp) : State := { s with turns := s.turns.tail, script := rest }

end Sys2Proof.Machine
end

