-- ==== Sys2Proof/Certificates/Slice0/Obligations.lean ====
section
/-! DEFINITION. The statements about HBCORE, one `def Obligations.<Name> : Prop` each; OBLIGATIONS.json lists them. The
spec-side terms (closed forms, unchanged parts, invariants) are those of Sys2Proof/Safety.lean. -/

open Sys2Proof Sys2Proof.Machine

/-! Decoding, encoding, and the step -/

/-- R210, R20: on the core's turn, a started command whose code decodes runs; the step is its meaning on the state with
the turn taken off the list `turns` (the model's field, assumption log 4). -/
def Obligations.StepRunsTheStartedCommand : Prop :=
  ∀ (s : State) (i : Instr), s.nextAgent = .core → s.status.busy = true →
    decode .cmd8 [s.status.lastop] = .ok i → i.WellFormed Config.params →
    step s = exec i { s with turns := s.turns.tail }

/-- The model's choice of assumption log 5 and 6: an instruction of the table placed by `withFetchWord` is what the very
next step runs. -/
def Obligations.PlacedWordRunsFirst : Prop :=
  ∀ (s : State) (nbits w : Nat) (i : Instr), decodeTableWord nbits w = some i →
    step (s.withFetchWord nbits w) = exec i (s.withFetchWord nbits w)

/-- R205, R93, R203: a started code that is none of 0x01 to 0x06 completes with E_ILLEGAL_CMD and changes nothing else of the
block. The turn taken off `turns` is the model's own field (assumption log 4). -/
def Obligations.IllegalCodeCompletesWithError : Prop :=
  ∀ s : State, s.nextAgent = .core → s.status.busy = true →
    (s.status.lastop = 0x00 ∨ 0x07 ≤ s.status.lastop.toNat) →
    step s = .next (({ s with turns := s.turns.tail } : State).ended 0x80)

/-- R91, R96, R97, R98: words written out from the spec's encodings decode to the instruction they stand for. -/
def Obligations.WrittenOutWordsDecode : Prop :=
  decode .cmd8 [0x01] = .ok .modesel ∧ decode .cmd8 [0x02] = .ok .hash ∧ decode .cmd8 [0x03] = .ok .crc32 ∧
  decode .cmd8 [0x04] = .ok .encCreq ∧ decode .cmd8 [0x05] = .ok .decCresp ∧ decode .cmd8 [0x06] = .ok .encHb ∧
  decode .wireCreq [0x07, 0x2A, 0x08, 0x00, 0x01, 0x00, 0x00, 0x00] = .ok (.pktCreq { opc := 0x07, seq := 0x2A }) ∧
  decode .wireCresp [0x07, 0x01, 0x10, 0x00, 0x06, 0x00, 0x00, 0x00, 0x79, 0x56, 0x34, 0x12, 0xC0, 0xA8, 0x01, 0x64] =
    .ok (.pktCresp
      { opc := 0x07
        reserved := { b0 := 0x01, b1 := 0x10, b2 := 0x00, b3 := 0x06, b4 := 0x00, b5 := 0x00, b6 := 0x00 }
        seed := 0x12345679, srcIp := 0xC0A80164 })

/-- R90, R91, R96, R97, R98: decoding the encoding of any instruction gives the instruction back, from its bytes and from
its bits as the opcode table numbers them. No operand bit is dropped. -/
def Obligations.DecodeOfEncodeIsTheInstruction : Prop :=
  ∀ i : Instr, decode i.format (encode i) = .ok i ∧
    decodeTableWord (8 * (encode i).length) (wordOf (encode i)) = some i

/-- R90, R96, R97, R98: whatever bytes decode, the instruction is of that format and its encoding is those bytes, less
the bytes from 16 on of a Challenge Response, which are ignored. -/
def Obligations.EncodeOfDecodeIsTheBytes : Prop :=
  ∀ (f : Format) (bs : List Byte) (i : Instr), decode f bs = .ok i → i.format = f ∧ encode i = bs.take f.size

/-! MODESEL and HASH -/

/-- R121: the selector, over all 256 bytes. -/
def Obligations.FromModeMapsSelectorBytes : Prop :=
  ∀ b : Byte, fromMode b =
    if b = 0 then .ok .none else if b = 1 then .ok .md5 else if b = 2 then .ok .md4 else if b = 3 then .ok .sha1
    else .error .modeNotExist

/-- R128: MODESEL with MODE 0 to 3 writes R_MODE with that number, with MODE 4 to 255 it ends with E_MODE_NOT_EXIST;
nothing else but STATUS changes, and ILEN and IBUF are not looked at. -/
def Obligations.ModeselWritesRModeOrFails : Prop :=
  ∀ s : State,
    (s.mode.toNat < 4 →
      exec .modesel s = .next (({ s with rMode := BitVec.ofNat 2 s.mode.toNat } : State).ended 0x00)) ∧
    (4 ≤ s.mode.toNat → exec .modesel s = .next (s.ended 0x01))

/-- R129, R207: a selector byte of 4 to 255 ends HASH with E_MODE_NOT_EXIST, unless ILEN exceeds the capacity, which is
tested first. -/
def Obligations.HashRejectsOtherSelectors : Prop :=
  ∀ s : State, 4 ≤ s.mode.toNat →
    exec .hash s = .next (s.ended (if Config.ibufCap < s.ilen.toNat then 0x81 else 0x01))

/-- R129, R123, R126: HASH in mode None writes the synthetic digest whatever IBUF holds. -/
def Obligations.HashModeNoneWritesSynth : Prop :=
  ∀ s : State, s.ilen.toNat ≤ Config.ibufCap → s.mode = 0x00 →
    EmitsOnly (exec .hash s) s [199, 47, 49, 1, 126, 0, 0, 0]

/-- R129, R122, R124, R125: HASH in modes MD5, MD4 and SHA1 writes the eight retained bytes of the digest of the input,
or fails with E_RETAIN_COUNT where the digest is shorter than the retain table needs. -/
def Obligations.HashWritesRetainedDigestBytes : Prop :=
  ∀ s : State, s.ilen.toNat ≤ Config.ibufCap →
    (s.mode = 0x01 →
      if 15 ≤ (Config.digest .md5 (inputBytes s)).length
      then EmitsOnly (exec .hash s) s (keptMd5 (Config.digest .md5 (inputBytes s)))
      else exec .hash s = .next (s.ended 0x03)) ∧
    (s.mode = 0x02 →
      if 13 ≤ (Config.digest .md4 (inputBytes s)).length
      then EmitsOnly (exec .hash s) s (keptMd4 (Config.digest .md4 (inputBytes s)))
      else exec .hash s = .next (s.ended 0x03)) ∧
    (s.mode = 0x03 →
      if 17 ≤ (Config.digest .sha1 (inputBytes s)).length
      then EmitsOnly (exec .hash s) s (keptSha1 (Config.digest .sha1 (inputBytes s)))
      else exec .hash s = .next (s.ended 0x03))

/-- R126: under DIGEST_LEN_STD `hash` returns exactly eight bytes for every mode and input; in mode None it is the same
eight bytes for every input, whatever the digests are. -/
def Obligations.HashReturnsEightBytes : Prop :=
  (∀ P : Params, P.DigestLenStd → ∀ (m : Mode) (buf : List Byte), ∃ out, Machine.hash P m buf = .ok out ∧ out.length = 8) ∧
  (∀ (P : Params) (buf : List Byte), Machine.hash P .none buf = .ok [199, 47, 49, 1, 126, 0, 0, 0])

/-! CRC32 -/

/-- R142, R140, R141: CRC32 on a length that is a multiple of 4 writes R_CRC with INIT exclusive-or the little-endian
words of IBUF[0..ILEN-1], and changes nothing else but STATUS. -/
def Obligations.Crc32FoldsLittleEndianWords : Prop :=
  ∀ s : State, s.ilen.toNat ≤ Config.ibufCap → s.ilen.toNat % 4 = 0 →
    exec .crc32 s = .next
      (({ s with
          rCrc := (List.range (s.ilen.toNat / 4)).foldl
            (fun acc k => acc ^^^ littleWord (s.ibuf.read (4 * k)) (s.ibuf.read (4 * k + 1)) (s.ibuf.read (4 * k + 2))
              (s.ibuf.read (4 * k + 3))) s.init } : State).ended 0x00)

/-- R142, R207: CRC32 on a length that is no multiple of 4 fails with E_INPUT_LENGTH_INVALID unless ILEN exceeds the
capacity, which is tested first. -/
def Obligations.Crc32RejectsOtherLengths : Prop :=
  ∀ s : State, s.ilen.toNat % 4 ≠ 0 →
    exec .crc32 s = .next (s.ended (if Config.ibufCap < s.ilen.toNat then 0x81 else 0x02))

/-- The laws of the fold that R143 derives: the order of the words does not matter, two equal words cancel, the initial
value comes out by exclusive or, a concatenation folds in two steps, the empty sequence gives the initial value. -/
def Obligations.FoldLawsOfCrc32 : Prop :=
  (∀ (ws vs : List U32) (i : U32), ws.Perm vs → crc32 (ws.flatMap le32) i = crc32 (vs.flatMap le32) i) ∧
  (∀ (w : U32) (bs : List Byte) (i : U32), crc32 (le32 w ++ le32 w ++ bs) i = crc32 bs i) ∧
  (∀ (bs : List Byte) (i : U32), crc32 bs i = (crc32 bs 0).map (fun c => i ^^^ c)) ∧
  (∀ (a b : List Byte) (i : U32), a.length % 4 = 0 → crc32 (a ++ b) i = (crc32 a i).bind (fun c => crc32 b c)) ∧
  (∀ i : U32, crc32 [] i = .ok i)

/-! ENC_CREQ -/

/-- R152, R150: ENC_CREQ writes the eight bytes of the Challenge Request to OBUF[0..7] and OLEN = 8, from every state,
and changes nothing else but STATUS. Bytes 6 and 7 are the spec's decision D13. -/
def Obligations.EncCreqEmitsChallengeRequest : Prop :=
  ∀ s : State, EmitsOnly (exec .encCreq s) s [Config.opcCreq, s.seq, 0x08, 0x00, 0x01, 0x00, 0x00, 0x00]

/-- R151, R99: the Challenge Request has eight bytes, bytes 2 to 5 read as 65544 and bytes 2 to 3 as its length, and only
byte 1 depends on the sequence number. -/
def Obligations.ChallengeRequestLaws : Prop :=
  ∀ (P : Params) (seq seq' : Byte),
    (creq P seq).length = 8 ∧ fromLe32 (slice (creq P seq) 2 4) = 65544 ∧
    (byteAt (creq P seq) 2).toNat + 256 * (byteAt (creq P seq) 3).toNat = (creq P seq).length ∧
    byteAt (creq P seq) 1 = seq ∧ (creq P seq).drop 2 = (creq P seq').drop 2

/-! DEC_CRESP -/

/-- R164, R163: DEC_CRESP of at least 16 bytes with the right opcode delivers the seed (little-endian) and the source
address (big-endian) and changes nothing else but STATUS. -/
def Obligations.DecCrespDeliversSeedAndAddress : Prop :=
  ∀ s : State, 16 ≤ s.ilen.toNat → s.ilen.toNat ≤ Config.ibufCap → s.ibuf.read 0 = Config.opcCresp →
    exec .decCresp s = .next
      (({ s with
          rSeed := littleWord (s.ibuf.read 8) (s.ibuf.read 9) (s.ibuf.read 10) (s.ibuf.read 11)
          rSrcip := littleWord (s.ibuf.read 15) (s.ibuf.read 14) (s.ibuf.read 13) (s.ibuf.read 12) } : State).ended 0x00)

/-- R164, R165: which error DEC_CRESP reports, by length and opcode; nothing but STATUS changes. -/
def Obligations.DecCrespErrorsByLengthAndOpcode : Prop :=
  ∀ s : State,
    (s.ilen.toNat = 0 → exec .decCresp s = .next (s.ended 0x10)) ∧
    (1 ≤ s.ilen.toNat → s.ilen.toNat ≤ Config.ibufCap → s.ibuf.read 0 ≠ Config.opcCresp →
      exec .decCresp s = .next (s.ended 0x11)) ∧
    (1 ≤ s.ilen.toNat → s.ilen.toNat ≤ 7 → s.ibuf.read 0 = Config.opcCresp →
      exec .decCresp s = .next (s.ended 0x12)) ∧
    (8 ≤ s.ilen.toNat → s.ilen.toNat ≤ 11 → s.ibuf.read 0 = Config.opcCresp →
      exec .decCresp s = .next (s.ended 0x13)) ∧
    (12 ≤ s.ilen.toNat → s.ilen.toNat ≤ 15 → s.ibuf.read 0 = Config.opcCresp →
      exec .decCresp s = .next (s.ended 0x14))

/-- The round trip that R167 derives: any reserved bytes and any tail, the seed and the address come back. -/
def Obligations.ChallengeResponseRoundTrip : Prop :=
  ∀ (P : Params) (r tail : List Byte) (seed ip : U32), r.length = 7 →
    cresp P ([P.opcCresp] ++ r ++ le32 seed ++ be32 ip ++ tail) = .ok (seed, ip)

/-! ENC_HB -/

/-- R177, R182, R183, R184: ENC_HB with a seed that is a multiple of 3 (mode None) writes the 96 bytes with the multiplied
fold at 24 to 27, whatever the digests are, and changes nothing else but STATUS. -/
def Obligations.EncHbModeNoneEmitsFoldProduct : Prop :=
  ∀ s : State, s.seed.toNat % 3 = 0 →
    EmitsOnly (exec .encHb s) s
      (headOf s ++
        heartbeatFallback
          (heartbeatFold Config.opcHb s.seq s.typeId s.uidLen (macOf s) s.srcIp (flagOf s) s.seed) ++
        List.replicate 64 0x00)

/-- R177, R181, R182, R183, R185: ENC_HB with any other seed writes the 96 bytes with the retained digest bytes of the
seed at 24 to 31, MD5 for remainder 1 and MD4 for 2, or fails with E_RETAIN_COUNT on a digest too short. -/
def Obligations.EncHbDigestModesEmitRetainedBytes : Prop :=
  ∀ s : State, s.seed.toNat % 3 ≠ 0 → HeartbeatDigestEnds (exec .encHb s) s (headOf s) s.seed

/-- R186, R176: every Heartbeat Request has 96 bytes, bytes 2 and 3 read as 96, bytes 32 to 95 are 0x00, and in mode None
bytes 28 to 31 are 0x00. -/
def Obligations.HeartbeatPacketLaws : Prop :=
  ∀ (P : Params) (q : Request) (out : List Byte), hb P q = .ok out →
    out.length = 96 ∧ (byteAt out 2).toNat + 256 * (byteAt out 3).toNat = 96 ∧ out.drop 32 = List.replicate 64 0x00 ∧
    (q.seed.toNat % 3 = 0 → slice out 28 4 = [0x00, 0x00, 0x00, 0x00])

/-- R180: the two flag constants, their bytes on the wire, and the register encoding of the flag. -/
def Obligations.FlagConstantsOnTheWire : Prop :=
  flagConst .first = 0x2A006200 ∧ flagConst .notFirst = 0x2A006300 ∧
  le32 (flagConst .first) = [0x00, 0x62, 0x00, 0x2A] ∧ le32 (flagConst .notFirst) = [0x00, 0x63, 0x00, 0x2A] ∧
  flagOfBit 0 = .first ∧ flagOfBit 1 = .notFirst

/-- R185: the encoder cannot fail under DIGEST_LEN_STD, nor for a seed that is a multiple of 3 whatever the digests. -/
def Obligations.HeartbeatEncodingIsTotal : Prop :=
  (∀ P : Params, P.DigestLenStd → ∀ q : Request, ∃ out, hb P q = .ok out) ∧
  (∀ (P : Params) (q : Request), q.seed.toNat % 3 = 0 → ∃ out, hb P q = .ok out)

/-- R181, R127: the heartbeat's mode is the one numbered seed mod 3, and never SHA1. -/
def Obligations.HeartbeatNeverSelectsSha1 : Prop :=
  ∀ q : Request, ∃ m, hbMode q = .ok m ∧ m.number.toNat = q.seed.toNat % 3 ∧ m ≠ .sha1

/-- The remark of R184: in mode None a change of the sequence number in bit 0 together with a change of the flag leaves
the eight checksum bytes as they were. -/
def Obligations.HeartbeatFoldIsNotInjective : Prop :=
  ∀ (P : Params) (q : Request), q.seed.toNat % 3 = 0 →
    hbFoot2 P { q with seq := q.seq ^^^ 1, flag := (match q.flag with | .first => .notFirst | .notFirst => .first) } =
      hbFoot2 P q

/-! The packets of format WIRE (the model's reading of these rows: assumption log 6, 7) -/

/-- R96, R150, R152 and assumption log 6: running PKT_CREQ emits the Challenge Request with the packet's sequence
number. -/
def Obligations.PktCreqEmitsItsPacket : Prop :=
  ∀ (p : CreqPacket) (s : State),
    EmitsOnly (exec (.pktCreq p) s) s [Config.opcCreq, p.seq, 0x08, 0x00, 0x01, 0x00, 0x00, 0x00]

/-- R97, R164 and assumption log 6: running PKT_CRESP delivers the packet's seed and address where its opcode is
`P_OPC_CRESP`. -/
def Obligations.PktCrespDeliversItsFields : Prop :=
  ∀ (p : CrespPacket) (s : State), p.opc = Config.opcCresp →
    exec (.pktCresp p) s = .next (({ s with rSeed := p.seed, rSrcip := p.srcIp } : State).ended 0x00)

/-- R161, R164 and assumption log 6: PKT_CRESP with another opcode ends with E_OPCODE_MISMATCH. -/
def Obligations.PktCrespRejectsOtherOpcode : Prop :=
  ∀ (p : CrespPacket) (s : State), p.opc ≠ Config.opcCresp → exec (.pktCresp p) s = .next (s.ended 0x11)

/-- R98, R177, R184 and assumption log 6, 7: running PKT_HB with a seed that is a multiple of 3 emits the heartbeat of the
packet's operand fields. -/
def Obligations.PktHbModeNoneEmitsItsPacket : Prop :=
  ∀ (p : HbPacket) (s : State), p.seed.toNat % 3 = 0 →
    EmitsOnly (exec (.pktHb p) s) s
      (headOfPacket p ++
        heartbeatFallback (heartbeatFold Config.opcHb p.seq p.typeId p.uidLen p.mac p.srcIp p.flag p.seed) ++
        List.replicate 64 0x00)

/-- R98, R177, R181, R185 and assumption log 6, 7: running PKT_HB with any other seed. -/
def Obligations.PktHbDigestModesEmitItsPacket : Prop :=
  ∀ (p : HbPacket) (s : State), p.seed.toNat % 3 ≠ 0 →
    HeartbeatDigestEnds (exec (.pktHb p) s) s (headOfPacket p) p.seed

/-- R96, R98 and assumption log 6, 7 (that a packet is run, and that the block supplies its opcode and checksum): a
well-formed packet that the block emits is stored in OBUF exactly as encoded. -/
def Obligations.WellFormedPacketIsEmittedAsEncoded : Prop :=
  ∀ (i : Instr) (s : State), i.format = .wireCreq ∨ i.format = .wireHb → i.WellFormed Config.params →
    EmitsOnly (exec i s) s (encode i)

/-! All commands -/

/-- R206: E_ILEN_RANGE is raised by HASH, CRC32 and DEC_CRESP exactly when ILEN exceeds the capacity, with no other effect,
and by no other command; that a packet run as an instruction never raises it is assumption log 6. -/
def Obligations.IlenRangeErrorExactly : Prop :=
  ∀ (i : Instr) (s t : State), exec i s = .next t →
    (t.status.err = 0x81 ↔ (i = .hash ∨ i = .crc32 ∨ i = .decCresp) ∧ Config.ibufCap < s.ilen.toNat) ∧
    (t.status.err = 0x81 → t = s.ended 0x81)

/-- R203: a completion with an error changes ERR and BUSY and nothing else. For the packet PKT_CRESP run as an instruction
this is the model's choice (assumption log 6), and the host agent's fields are the model's own (log 4). -/
def Obligations.FailureChangesStatusOnly : Prop :=
  ∀ (i : Instr) (s t : State), exec i s = .next t → t.status.err ≠ 0x00 → t = s.ended t.status.err

/-- R92, R211, R210: no command writes an operand register, ILEN, IBUF or LASTOP, and BUSY is 0 after it. The same of the
three packets run as instructions is the model's choice (assumption log 6); the host agent's fields are the model's own
(assumption log 4). -/
def Obligations.OperandsAreNeverWritten : Prop :=
  ∀ (i : Instr) (s t : State), exec i s = .next t →
    t.ilen = s.ilen ∧ t.seq = s.seq ∧ t.typeId = s.typeId ∧ t.uidLen = s.uidLen ∧ t.flag = s.flag ∧ t.srcIp = s.srcIp ∧
    t.seed = s.seed ∧ t.mode = s.mode ∧ t.init = s.init ∧ macOf t = macOf s ∧ t.ibuf = s.ibuf ∧
    t.status.lastop = s.status.lastop ∧ t.status.busy = false ∧ t.script = s.script ∧ t.turns = s.turns ∧ t.reads = s.reads

/-- R92, R7: what an instruction leaves in its outputs, and its error code, depend on the operands of its row alone. That a
packet run as an instruction reads no operand of the state is the model's choice (assumption log 6). -/
def Obligations.ResultsDependOnListedOperandsOnly : Prop :=
  ∀ (i : Instr) (s s' t t' : State), AgreeOnReads i s s' → exec i s = .next t → exec i s' = .next t' →
    t.status.err = t'.status.err ∧ (t.status.err = 0x00 → AgreeOnWrites i t t')

/-! The host -/

/-- R20, R208 and assumption log 4: on the host's turn the step performs the next operation of the host's script, and
with an empty script changes nothing of the block. -/
def Obligations.HostTurnPerformsNextOperation : Prop :=
  (∀ (s : State) (op : HostOp) (rest : List HostOp), HostsNext s op rest →
    step s = .next (State.performOp (s.afterTurn rest) op)) ∧
  (∀ s : State, s.nextAgent = .host → s.script = [] → step s = .next { s with turns := s.turns.tail })

/-- R25: a CMD write while not busy sets LASTOP and BUSY and changes nothing else, for all 256 codes; while busy it is
ignored; CMD reads as 0x00. -/
def Obligations.CmdWriteStartsTheCommand : Prop :=
  ∀ (s : State) (c : Byte),
    (s.status.busy = false → s.hostWrite (.reg .cmd) c =
      { s with status := { busy := true, err := s.status.err, lastop := c } }) ∧
    (s.status.busy = true → s.hostWrite (.reg .cmd) c = s) ∧ s.hostRead (.reg .cmd) = (0x00 : Byte)

/-- R61 (tests 1 to 3), R62, R63: a write outside, to a read-only location, or while busy has no effect; a read outside
returns 0. -/
def Obligations.IgnoredWritesAndOutsideReads : Prop :=
  ∀ (s : State) (l : Loc) (v : BitVec l.width),
    (l.outside = true ∨ l.access = .ro ∨ s.status.busy = true → s.hostWrite l v = s) ∧
    (l.outside = true → s.hostRead l = 0)

/-- R63: while busy, no host access changes the block, and every location reads as before. The pending access stands in the
model's own `script` and `turns` (assumption log 4). -/
def Obligations.BusyWindowIgnoresHostWrites : Prop :=
  ∀ (s : State) (m : HostMove) (rest : List HostOp), s.status.busy = true → HostsNext s (.move m) rest → m ≠ .reset →
    ∃ t, step s = .next t ∧ SameBlock s t ∧ ∀ l : Loc, t.hostRead l = s.hostRead l

/-- R61 (test 5), R73: a write to a read-write location while not busy is what the next read of it returns, and every
other location reads as before. -/
def Obligations.WriteIsReadBackAndNothingElseMoves : Prop :=
  ∀ (s : State) (l : Loc) (v : BitVec l.width), l.outside = false → l.access = .rw → s.status.busy = false →
    (s.hostWrite l v).hostRead l = v ∧ ∀ l' : Loc, l' ≠ l → (s.hostWrite l v).hostRead l' = s.hostRead l'

/-- R26: the fields of STATUS as the host reads it. -/
def Obligations.StatusWordHasItsFields : Prop :=
  ∀ s : State,
    let w : BitVec 32 := s.hostRead (.reg .status)
    w.getLsbD 0 = s.status.busy ∧ w.extractLsb' 1 7 = 0 ∧ w.extractLsb' 8 8 = s.status.err ∧
    w.extractLsb' 16 8 = s.status.lastop ∧ w.extractLsb' 24 8 = 0

/-- R48, R62: the register numbers, and the unassigned ones. -/
def Obligations.RegisterNumbersAreTheMap : Prop :=
  (∀ r : Reg, Reg.ofNumber r.number = some r) ∧
  (∀ n : Byte, Reg.ofNumber n = none ↔
    (0x04 ≤ n.toNat ∧ n.toNat ≤ 0x0F) ∨ n = 0x1E ∨ n = 0x1F ∨ 0x24 ≤ n.toNat)

/-- R240, R242: `Reset`, at any time, busy or not, leaves every location at its reset value, TYPE_ID 0x03 and all else 0, and
the block as `State.reset`. That the host agent's own fields `script`, `turns` and `reads` go on is the model's (assumption
log 4 and 8). -/
def Obligations.ResetMoveRestoresEveryLocation : Prop :=
  ∀ (s : State) (rest : List HostOp), HostsNext s (.move .reset) rest →
    ∃ t, step s = .next t ∧ SameBlock State.reset t ∧ t.script = rest ∧ t.turns = s.turns.tail ∧ t.reads = s.reads ∧
      ∀ l : Loc, (t.hostRead l).toNat = if l = .reg .typeId then 3 else 0

/-- R70, R61 (test 6): a read changes nothing of the block; the host has the location's current value, kept in the model's own
`reads` (assumption log 4). -/
def Obligations.ReadHasNoSideEffect : Prop :=
  ∀ (s : State) (l : Loc) (rest : List HostOp), HostsNext s (.move (.read l)) rest →
    step s = .next { s.afterTurn rest with reads := { loc := l, value := s.hostRead l } :: s.reads }

/-- R103: WAIT reads STATUS and stays in the script exactly while the value read has BUSY = 1. That it is one operation of the
script with one read per move is the model's form of it (assumption log 4 and 17). -/
def Obligations.WaitRepeatsWhileBusy : Prop :=
  ∀ (s : State) (rest : List HostOp), HostsNext s .poll rest →
    step s = .next
      { s.afterTurn (if s.status.busy then .poll :: rest else rest) with
        reads := { loc := .reg .status, value := s.hostRead (.reg .status) } :: s.reads }

/-- R103: `MOV DST, SRC` between registers of one width, two moves of the host, leaves in DST what SRC held. That two steps
are those two moves is the model's choice: the default schedule (assumption log 11) on the script (assumption log 4). Two
widths are left to assumption log 16. -/
def Obligations.MovCopiesTheRegister : Prop :=
  ∀ (s : State) (dst src : Reg) (rest : List HostOp), s.status.busy = false → s.turns = [] → dst.access = .rw →
    dst.width = src.width → s.script = Line.expand (.mov dst src) ++ rest →
    ∃ t, core.run 2 s = .next t ∧ (t.readReg dst).toNat = (s.readReg src).toNat ∧ t.script = rest ∧
      ∀ r : Reg, r ≠ dst → (t.readReg r).toNat = (s.readReg r).toNat

/-- R103: `LOAD` of a byte sequence that fits IBUF leaves it as the input, with every other byte of IBUF as before. That one
step more than there are bytes is enough is the model's choice: the default schedule (assumption log 11) on the script
(assumption log 4). -/
def Obligations.LoadFillsTheInput : Prop :=
  ∀ (s : State) (bytes : List Byte) (rest : List HostOp), s.status.busy = false → s.turns = [] →
    bytes.length ≤ Config.ibufCap → s.script = Line.expand (.load bytes) ++ rest →
    ∃ t, core.run (bytes.length + 1) s = .next t ∧ inputBytes t = bytes ∧ t.script = rest ∧ s.ibuf.Overwritten t.ibuf bytes

/-- The model's default schedule (assumption log 11) on the script (assumption log 4): `RUN MNEMONIC` (R103) from an idle
block is over after three steps, the CMD write, the completion and one read of STATUS. That read shows BUSY = 0, and the
block is left with the mnemonic's code in LASTOP. R103 itself lets the core complete between any two reads. -/
def Obligations.RunLineStartsWaitsAndEnds : Prop :=
  ∀ (s : State) (m : Mnemonic) (rest : List HostOp), s.status.busy = false → s.turns = [] →
    s.script = Line.expand (.run m) ++ rest →
    ∃ t, core.run 3 s = .next t ∧ t.status.busy = false ∧ t.status.lastop = m.code ∧ t.script = rest ∧
      ∃ r, t.reads = r :: s.reads ∧ r.loc = .reg .status ∧ r.value.toNat % 2 = 0

/-! Invariants and runs -/

/-- R240: the state after reset meets every invariant stated below. -/
def Obligations.ResetMeetsTheInvariants : Prop :=
  State.reset.BuffersCanonical ∧ State.reset.LegalOlenErr ∧ State.reset.ErrFitsLastop

/-- R45, R46: every step keeps both buffers canonical and within their sizes. -/
def Obligations.StepKeepsBuffersCanonical : Prop :=
  ∀ s t : State, s.BuffersCanonical → step s = .next t → t.BuffersCanonical

/-- R28, R201: every step keeps OLEN at 0, 8 or 96 and ERR at a code of the table. -/
def Obligations.StepKeepsOlenAndErrLegal : Prop :=
  ∀ s t : State, s.LegalOlenErr → step s = .next t → t.LegalOlenErr

/-- R204: every step keeps this: while no command is under way, ERR is a code that the command in LASTOP can complete
with, or nothing was started since reset. -/
def Obligations.StepKeepsErrInTheRowOfLastop : Prop :=
  ∀ s t : State, s.ErrFitsLastop → step s = .next t → t.ErrFitsLastop

/-- R200: nothing stops the machine: from every state there is a next state. -/
def Obligations.EveryStepGoesOn : Prop :=
  ∀ s : State, Goes (step s)

/-- R250: a started command is over, by `Complete` or by `Reset`, within one more step than there are turns listed. The list
`turns` is the model's own (assumption log 4), and that it is finite is its fairness (assumption log 11). -/
def Obligations.StartedCommandEnds : Prop :=
  ∀ s : State, s.status.busy = true →
    ∃ k t, k ≤ s.turns.length + 1 ∧ core.run k s = .next t ∧ t.status.busy = false

/-- R63, R210, R73: whatever the host does between the start and the completion, short of a reset, the block is unchanged
when the core's turn comes, so the command runs on the operands present when it was started. `turns` and `script` are the
model's own fields (assumption log 4). -/
def Obligations.HostCannotDisturbAStartedCommand : Prop :=
  ∀ (n : Nat) (s : State) (ts : List Agent), s.status.busy = true → s.turns = List.replicate n .host ++ .core :: ts →
    HostOp.move .reset ∉ s.script →
    ∃ t, core.run n s = .next t ∧ SameBlock s t ∧ t.nextAgent = .core ∧ t.turns = .core :: ts
end

