-- ==== Sys2Proof/Laws/Bytes.lean ====
section
/-! SUPPORT. The byte-order helpers: lengths, round trips, and the arithmetic form of spec/00_scope.md R15. -/

namespace Sys2Proof.Machine

@[simp] theorem length_le16 (v : U16) : (le16 v).length = 2 := rfl

@[simp] theorem length_le32 (v : U32) : (le32 v).length = 4 := rfl

@[simp] theorem length_be32 (v : U32) : (be32 v).length = 4 := rfl

@[simp] theorem length_zeros (n : Nat) : (zeros n).length = n := by simp [zeros]

@[simp] theorem byteAt_nil (i : Nat) : byteAt [] i = 0 := by simp [byteAt]

@[simp] theorem byteAt_cons_zero (b : Byte) (bs : List Byte) : byteAt (b :: bs) 0 = b := rfl

@[simp] theorem byteAt_cons_succ (b : Byte) (bs : List Byte) (i : Nat) : byteAt (b :: bs) (i + 1) = byteAt bs i := rfl

/-- The number of four bytes, the first the low one (R15). -/
theorem fromLe32_toNat (b0 b1 b2 b3 : Byte) :
    (fromLe32 [b0, b1, b2, b3]).toNat = b0.toNat + 256 * b1.toNat + 65536 * b2.toNat + 16777216 * b3.toNat := by
  simp only [fromLe32, byteAt, List.getD_cons_zero, List.getD_cons_succ, BitVec.toNat_append]
  have h0 := b0.isLt; have h1 := b1.isLt; have h2 := b2.isLt
  rw [Nat.shiftLeft_eq, Nat.shiftLeft_eq, Nat.shiftLeft_eq]
  rw [← Nat.shiftLeft_eq, ← Nat.shiftLeft_eq, ← Nat.shiftLeft_eq]
  rw [← Nat.shiftLeft_add_eq_or_of_lt (by omega), ← Nat.shiftLeft_add_eq_or_of_lt (by omega),
    ← Nat.shiftLeft_add_eq_or_of_lt (by omega)]
  simp only [Nat.shiftLeft_eq]
  omega

/-- The number of four bytes, the first the high one (R15). -/
theorem fromBe32_toNat (b0 b1 b2 b3 : Byte) :
    (fromBe32 [b0, b1, b2, b3]).toNat = 16777216 * b0.toNat + 65536 * b1.toNat + 256 * b2.toNat + b3.toNat := by
  have h : fromBe32 [b0, b1, b2, b3] = fromLe32 [b3, b2, b1, b0] := rfl
  rw [h, fromLe32_toNat]
  omega

/-- Reading back a little-endian word. -/
@[simp] theorem fromLe32_le32 (v : U32) : fromLe32 (le32 v) = v := by
  apply BitVec.eq_of_toNat_eq
  simp only [le32, fromLe32_toNat, BitVec.extractLsb'_toNat, Nat.shiftRight_eq_div_pow]
  have h := v.isLt
  omega

/-- A little-endian word taken apart again. -/
theorem le32_fromLe32 (b0 b1 b2 b3 : Byte) : le32 (fromLe32 [b0, b1, b2, b3]) = [b0, b1, b2, b3] := by
  have h0 := b0.isLt; have h1 := b1.isLt; have h2 := b2.isLt; have h3 := b3.isLt
  simp only [le32, List.cons.injEq, and_true]
  refine ⟨?_, ?_, ?_, ?_⟩ <;> apply BitVec.eq_of_toNat_eq <;>
    simp only [BitVec.extractLsb'_toNat, fromLe32_toNat, Nat.shiftRight_eq_div_pow] <;> omega

/-- Reading back a big-endian word. -/
@[simp] theorem fromBe32_be32 (v : U32) : fromBe32 (be32 v) = v := by
  have h : fromBe32 (be32 v) = fromLe32 (le32 v) := rfl
  rw [h, fromLe32_le32]

end Sys2Proof.Machine
end

