-- ==== Sys2Proof/Laws/Memory.lean ====
section
/-! SUPPORT. The laws of the buffers: a read after a write, and that every memory operation keeps the canonical form and
the buffer's size. They hold of every list, canonical or not, where no hypothesis says otherwise. -/

namespace Sys2Proof.Machine

@[simp] theorem Memory.read_nil (a : Nat) : Memory.read [] a = 0 := rfl

@[simp] theorem Memory.read_cons (a' : Nat) (b : Byte) (rest : Memory) (a : Nat) :
    Memory.read ((a', b) :: rest) a = if a' = a then b else Memory.read rest a := rfl

theorem Memory.read_insert (m : Memory) (a : Nat) (b : Byte) (i : Nat) :
    (m.insert a b).read i = if i = a then b else m.read i := by
  induction m with
  | nil => simp [Memory.insert, eq_comm]
  | cons c rest ih =>
    obtain ⟨a', b'⟩ := c
    simp only [Memory.insert]
    split
    · by_cases h : i = a
      · simp [h]
      · simp [h, Ne.symm h]
    · split
      · rename_i h1 h2
        subst h2
        by_cases h : i = a
        · simp [h]
        · simp [h, Ne.symm h]
      · by_cases h : a' = i
        · subst h
          rename_i h1 h2
          simp [Ne.symm h2]
        · simp [h, ih]

theorem Memory.read_erase (m : Memory) (a i : Nat) : (m.erase a).read i = if i = a then 0 else m.read i := by
  induction m with
  | nil => simp [Memory.erase]
  | cons c rest ih =>
    obtain ⟨a', b'⟩ := c
    simp only [Memory.erase] at ih ⊢
    by_cases h : a' = a
    · subst h
      by_cases hi : i = a'
      · simp_all
      · simp_all [Ne.symm hi]
    · by_cases hi : a' = i
      · subst hi
        simp [h]
      · simp [h, hi, ih]

/-- A write sets the byte at its index and leaves every other one. -/
theorem Memory.read_write (m : Memory) (a : Nat) (b : Byte) (i : Nat) :
    (m.write a b).read i = if i = a then b else m.read i := by
  simp only [Memory.write]
  split
  · rename_i h
    simp [Memory.read_erase, h]
  · exact Memory.read_insert m a b i

/-- A write of a byte sequence sets its bytes and leaves every other index. -/
theorem Memory.read_writeBytes (m : Memory) (a : Nat) (bs : List Byte) (i : Nat) :
    (m.writeBytes a bs).read i = if a ≤ i ∧ i < a + bs.length then bs.getD (i - a) 0 else m.read i := by
  induction bs generalizing m a with
  | nil =>
    have h : ¬ (a ≤ i ∧ i < a + ([] : List Byte).length) := by simp only [List.length_nil]; omega
    rw [if_neg h]
    rfl
  | cons b rest ih =>
    simp only [Memory.writeBytes, ih, Memory.read_write, List.length_cons]
    by_cases h : i = a
    · subst h
      simp
    · by_cases h2 : a ≤ i ∧ i < a + (rest.length + 1)
      · have h3 : a + 1 ≤ i ∧ i < a + 1 + rest.length := by omega
        obtain ⟨k, hk⟩ : ∃ k, i - a = k + 1 := ⟨i - a - 1, by omega⟩
        have hk' : i - (a + 1) = k := by omega
        simp [h2, h3, hk, hk']
      · have h3 : ¬ (a + 1 ≤ i ∧ i < a + 1 + rest.length) := by omega
        rw [if_neg h3, if_neg h, if_neg h2]

@[simp] theorem Memory.length_readBytes (m : Memory) (a n : Nat) : (m.readBytes a n).length = n := by
  simp [Memory.readBytes]

theorem Memory.readBytes_getD (m : Memory) (a n i : Nat) :
    (m.readBytes a n).getD i 0 = if i < n then m.read (a + i) else 0 := by
  by_cases h : i < n <;> simp [Memory.readBytes, List.getD, h]

/-- Reading back a byte sequence just written. -/
theorem Memory.readBytes_writeBytes (m : Memory) (a : Nat) (bs : List Byte) :
    (m.writeBytes a bs).readBytes a bs.length = bs := by
  apply List.ext_getElem (by simp)
  intro i h1 h2
  simp [Memory.readBytes, Memory.read_writeBytes, h2]

/-! The canonical form -/

theorem Memory.wfFrom_mono {lo lo' : Nat} {m : Memory} (h : Memory.wfFrom lo m = true) (hle : lo' ≤ lo) :
    Memory.wfFrom lo' m = true := by
  cases m with
  | nil => rfl
  | cons c rest =>
    obtain ⟨a, b⟩ := c
    simp only [Memory.wfFrom, Bool.and_eq_true, decide_eq_true_eq] at h ⊢
    exact ⟨⟨Nat.le_trans hle h.1.1, h.1.2⟩, h.2⟩

theorem Memory.wfFrom_insert {lo : Nat} {m : Memory} {a : Nat} {b : Byte} (h : Memory.wfFrom lo m = true)
    (ha : lo ≤ a) (hb : b ≠ 0) : Memory.wfFrom lo (m.insert a b) = true := by
  induction m generalizing lo with
  | nil =>
    simp only [Memory.insert, Memory.wfFrom, Bool.and_eq_true, decide_eq_true_eq, bne_iff_ne]
    exact ⟨⟨ha, hb⟩, trivial⟩
  | cons c rest ih =>
    obtain ⟨a', b'⟩ := c
    simp only [Memory.wfFrom, Bool.and_eq_true, decide_eq_true_eq, bne_iff_ne] at h
    simp only [Memory.insert]
    split
    · rename_i hlt
      simp only [Memory.wfFrom, Bool.and_eq_true, decide_eq_true_eq, bne_iff_ne]
      exact ⟨⟨ha, hb⟩, ⟨hlt, h.1.2⟩, h.2⟩
    · split
      · rename_i heq
        subst heq
        simp only [Memory.wfFrom, Bool.and_eq_true, decide_eq_true_eq, bne_iff_ne]
        exact ⟨⟨ha, hb⟩, h.2⟩
      · simp only [Memory.wfFrom, Bool.and_eq_true, decide_eq_true_eq, bne_iff_ne]
        exact ⟨⟨h.1.1, h.1.2⟩, ih h.2 (by omega)⟩

theorem Memory.wfFrom_erase {lo : Nat} {m : Memory} {a : Nat} (h : Memory.wfFrom lo m = true) :
    Memory.wfFrom lo (m.erase a) = true := by
  induction m generalizing lo with
  | nil => rfl
  | cons c rest ih =>
    obtain ⟨a', b'⟩ := c
    simp only [Memory.wfFrom, Bool.and_eq_true, decide_eq_true_eq, bne_iff_ne] at h
    simp only [Memory.erase] at ih ⊢
    by_cases hc : a' = a
    · simpa [hc] using Memory.wfFrom_mono (ih h.2) (by omega)
    · simp only [List.filter_cons, bne_iff_ne, ne_eq, hc, not_false_eq_true, if_true, Memory.wfFrom, Bool.and_eq_true,
        decide_eq_true_eq]
      exact ⟨h.1, ih h.2⟩

theorem Memory.wf_write {m : Memory} (h : m.wf = true) (a : Nat) (b : Byte) : (m.write a b).wf = true := by
  simp only [Memory.write, Memory.wf] at h ⊢
  split
  · exact Memory.wfFrom_erase h
  · rename_i hb
    exact Memory.wfFrom_insert h (Nat.zero_le a) hb

theorem Memory.wf_writeBytes {m : Memory} (h : m.wf = true) (a : Nat) (bs : List Byte) :
    (m.writeBytes a bs).wf = true := by
  induction bs generalizing m a with
  | nil => exact h
  | cons b rest ih => exact ih (Memory.wf_write h a b) (a + 1)

theorem Memory.within_write {m : Memory} {size : Nat} (h : m.within size = true) {a : Nat} (ha : a < size) (b : Byte) :
    (m.write a b).within size = true := by
  simp only [Memory.write, Memory.within, List.all_eq_true, decide_eq_true_eq] at h ⊢
  split
  · intro c hc
    exact h c (List.mem_of_mem_filter hc)
  · have hins : ∀ m : Memory, ∀ c ∈ m.insert a b, c = (a, b) ∨ c ∈ m := by
      intro m
      induction m with
      | nil => simp [Memory.insert]
      | cons c rest ih =>
        obtain ⟨a', b'⟩ := c
        intro d hd
        simp only [Memory.insert] at hd
        split at hd
        · simpa using hd
        · split at hd
          · rcases List.mem_cons.mp hd with h1 | h1
            · exact Or.inl h1
            · exact Or.inr (List.mem_cons_of_mem _ h1)
          · rcases List.mem_cons.mp hd with h1 | h1
            · exact Or.inr (by simp [h1])
            · rcases ih d h1 with h2 | h2
              · exact Or.inl h2
              · exact Or.inr (List.mem_cons_of_mem _ h2)
    intro c hc
    rcases hins m c hc with h1 | h1
    · simpa [h1] using ha
    · exact h c h1

theorem Memory.within_writeBytes {m : Memory} {size : Nat} (h : m.within size = true) {a : Nat} {bs : List Byte}
    (ha : a + bs.length ≤ size) : (m.writeBytes a bs).within size = true := by
  induction bs generalizing m a with
  | nil => exact h
  | cons b rest ih =>
    simp only [List.length_cons] at ha
    exact ih (Memory.within_write h (by omega) b) (by omega)

end Sys2Proof.Machine
end

