-- ==== Sys2Proof/Laws/State.lean ====
section
/-! SUPPORT. One lemma per field per update of State (the named updates of Machine/Ops.lean and `takeTurn`), each true
by rfl, so that no later proof unfolds a record update. -/

namespace Sys2Proof.Machine

@[simp] theorem State.start_status (s : State) (c : Byte) : (s.start c).status = ({ s.status with lastop := c, busy := true } : Status) := rfl
@[simp] theorem State.start_ilen (s : State) (c : Byte) : (s.start c).ilen = s.ilen := rfl
@[simp] theorem State.start_olen (s : State) (c : Byte) : (s.start c).olen = s.olen := rfl
@[simp] theorem State.start_seq (s : State) (c : Byte) : (s.start c).seq = s.seq := rfl
@[simp] theorem State.start_typeId (s : State) (c : Byte) : (s.start c).typeId = s.typeId := rfl
@[simp] theorem State.start_uidLen (s : State) (c : Byte) : (s.start c).uidLen = s.uidLen := rfl
@[simp] theorem State.start_flag (s : State) (c : Byte) : (s.start c).flag = s.flag := rfl
@[simp] theorem State.start_srcIp (s : State) (c : Byte) : (s.start c).srcIp = s.srcIp := rfl
@[simp] theorem State.start_seed (s : State) (c : Byte) : (s.start c).seed = s.seed := rfl
@[simp] theorem State.start_mode (s : State) (c : Byte) : (s.start c).mode = s.mode := rfl
@[simp] theorem State.start_init (s : State) (c : Byte) : (s.start c).init = s.init := rfl
@[simp] theorem State.start_mac0 (s : State) (c : Byte) : (s.start c).mac0 = s.mac0 := rfl
@[simp] theorem State.start_mac1 (s : State) (c : Byte) : (s.start c).mac1 = s.mac1 := rfl
@[simp] theorem State.start_mac2 (s : State) (c : Byte) : (s.start c).mac2 = s.mac2 := rfl
@[simp] theorem State.start_mac3 (s : State) (c : Byte) : (s.start c).mac3 = s.mac3 := rfl
@[simp] theorem State.start_mac4 (s : State) (c : Byte) : (s.start c).mac4 = s.mac4 := rfl
@[simp] theorem State.start_mac5 (s : State) (c : Byte) : (s.start c).mac5 = s.mac5 := rfl
@[simp] theorem State.start_rSeed (s : State) (c : Byte) : (s.start c).rSeed = s.rSeed := rfl
@[simp] theorem State.start_rSrcip (s : State) (c : Byte) : (s.start c).rSrcip = s.rSrcip := rfl
@[simp] theorem State.start_rCrc (s : State) (c : Byte) : (s.start c).rCrc = s.rCrc := rfl
@[simp] theorem State.start_rMode (s : State) (c : Byte) : (s.start c).rMode = s.rMode := rfl
@[simp] theorem State.start_ibuf (s : State) (c : Byte) : (s.start c).ibuf = s.ibuf := rfl
@[simp] theorem State.start_obuf (s : State) (c : Byte) : (s.start c).obuf = s.obuf := rfl
@[simp] theorem State.start_script (s : State) (c : Byte) : (s.start c).script = s.script := rfl
@[simp] theorem State.start_turns (s : State) (c : Byte) : (s.start c).turns = s.turns := rfl
@[simp] theorem State.start_reads (s : State) (c : Byte) : (s.start c).reads = s.reads := rfl

@[simp] theorem State.raise_status (s : State) (e : ErrCode) : (s.raise e).status = ({ s.status with err := e.code, busy := false } : Status) := rfl
@[simp] theorem State.raise_ilen (s : State) (e : ErrCode) : (s.raise e).ilen = s.ilen := rfl
@[simp] theorem State.raise_olen (s : State) (e : ErrCode) : (s.raise e).olen = s.olen := rfl
@[simp] theorem State.raise_seq (s : State) (e : ErrCode) : (s.raise e).seq = s.seq := rfl
@[simp] theorem State.raise_typeId (s : State) (e : ErrCode) : (s.raise e).typeId = s.typeId := rfl
@[simp] theorem State.raise_uidLen (s : State) (e : ErrCode) : (s.raise e).uidLen = s.uidLen := rfl
@[simp] theorem State.raise_flag (s : State) (e : ErrCode) : (s.raise e).flag = s.flag := rfl
@[simp] theorem State.raise_srcIp (s : State) (e : ErrCode) : (s.raise e).srcIp = s.srcIp := rfl
@[simp] theorem State.raise_seed (s : State) (e : ErrCode) : (s.raise e).seed = s.seed := rfl
@[simp] theorem State.raise_mode (s : State) (e : ErrCode) : (s.raise e).mode = s.mode := rfl
@[simp] theorem State.raise_init (s : State) (e : ErrCode) : (s.raise e).init = s.init := rfl
@[simp] theorem State.raise_mac0 (s : State) (e : ErrCode) : (s.raise e).mac0 = s.mac0 := rfl
@[simp] theorem State.raise_mac1 (s : State) (e : ErrCode) : (s.raise e).mac1 = s.mac1 := rfl
@[simp] theorem State.raise_mac2 (s : State) (e : ErrCode) : (s.raise e).mac2 = s.mac2 := rfl
@[simp] theorem State.raise_mac3 (s : State) (e : ErrCode) : (s.raise e).mac3 = s.mac3 := rfl
@[simp] theorem State.raise_mac4 (s : State) (e : ErrCode) : (s.raise e).mac4 = s.mac4 := rfl
@[simp] theorem State.raise_mac5 (s : State) (e : ErrCode) : (s.raise e).mac5 = s.mac5 := rfl
@[simp] theorem State.raise_rSeed (s : State) (e : ErrCode) : (s.raise e).rSeed = s.rSeed := rfl
@[simp] theorem State.raise_rSrcip (s : State) (e : ErrCode) : (s.raise e).rSrcip = s.rSrcip := rfl
@[simp] theorem State.raise_rCrc (s : State) (e : ErrCode) : (s.raise e).rCrc = s.rCrc := rfl
@[simp] theorem State.raise_rMode (s : State) (e : ErrCode) : (s.raise e).rMode = s.rMode := rfl
@[simp] theorem State.raise_ibuf (s : State) (e : ErrCode) : (s.raise e).ibuf = s.ibuf := rfl
@[simp] theorem State.raise_obuf (s : State) (e : ErrCode) : (s.raise e).obuf = s.obuf := rfl
@[simp] theorem State.raise_script (s : State) (e : ErrCode) : (s.raise e).script = s.script := rfl
@[simp] theorem State.raise_turns (s : State) (e : ErrCode) : (s.raise e).turns = s.turns := rfl
@[simp] theorem State.raise_reads (s : State) (e : ErrCode) : (s.raise e).reads = s.reads := rfl

@[simp] theorem State.succeed_status (s : State) : (s.succeed).status = ({ s.status with err := okCode, busy := false } : Status) := rfl
@[simp] theorem State.succeed_ilen (s : State) : (s.succeed).ilen = s.ilen := rfl
@[simp] theorem State.succeed_olen (s : State) : (s.succeed).olen = s.olen := rfl
@[simp] theorem State.succeed_seq (s : State) : (s.succeed).seq = s.seq := rfl
@[simp] theorem State.succeed_typeId (s : State) : (s.succeed).typeId = s.typeId := rfl
@[simp] theorem State.succeed_uidLen (s : State) : (s.succeed).uidLen = s.uidLen := rfl
@[simp] theorem State.succeed_flag (s : State) : (s.succeed).flag = s.flag := rfl
@[simp] theorem State.succeed_srcIp (s : State) : (s.succeed).srcIp = s.srcIp := rfl
@[simp] theorem State.succeed_seed (s : State) : (s.succeed).seed = s.seed := rfl
@[simp] theorem State.succeed_mode (s : State) : (s.succeed).mode = s.mode := rfl
@[simp] theorem State.succeed_init (s : State) : (s.succeed).init = s.init := rfl
@[simp] theorem State.succeed_mac0 (s : State) : (s.succeed).mac0 = s.mac0 := rfl
@[simp] theorem State.succeed_mac1 (s : State) : (s.succeed).mac1 = s.mac1 := rfl
@[simp] theorem State.succeed_mac2 (s : State) : (s.succeed).mac2 = s.mac2 := rfl
@[simp] theorem State.succeed_mac3 (s : State) : (s.succeed).mac3 = s.mac3 := rfl
@[simp] theorem State.succeed_mac4 (s : State) : (s.succeed).mac4 = s.mac4 := rfl
@[simp] theorem State.succeed_mac5 (s : State) : (s.succeed).mac5 = s.mac5 := rfl
@[simp] theorem State.succeed_rSeed (s : State) : (s.succeed).rSeed = s.rSeed := rfl
@[simp] theorem State.succeed_rSrcip (s : State) : (s.succeed).rSrcip = s.rSrcip := rfl
@[simp] theorem State.succeed_rCrc (s : State) : (s.succeed).rCrc = s.rCrc := rfl
@[simp] theorem State.succeed_rMode (s : State) : (s.succeed).rMode = s.rMode := rfl
@[simp] theorem State.succeed_ibuf (s : State) : (s.succeed).ibuf = s.ibuf := rfl
@[simp] theorem State.succeed_obuf (s : State) : (s.succeed).obuf = s.obuf := rfl
@[simp] theorem State.succeed_script (s : State) : (s.succeed).script = s.script := rfl
@[simp] theorem State.succeed_turns (s : State) : (s.succeed).turns = s.turns := rfl
@[simp] theorem State.succeed_reads (s : State) : (s.succeed).reads = s.reads := rfl

@[simp] theorem State.emit_status (s : State) (n : Nat) (bs : List Byte) : (s.emit n bs).status = s.status := rfl
@[simp] theorem State.emit_ilen (s : State) (n : Nat) (bs : List Byte) : (s.emit n bs).ilen = s.ilen := rfl
@[simp] theorem State.emit_olen (s : State) (n : Nat) (bs : List Byte) : (s.emit n bs).olen = BitVec.ofNat 8 n := rfl
@[simp] theorem State.emit_seq (s : State) (n : Nat) (bs : List Byte) : (s.emit n bs).seq = s.seq := rfl
@[simp] theorem State.emit_typeId (s : State) (n : Nat) (bs : List Byte) : (s.emit n bs).typeId = s.typeId := rfl
@[simp] theorem State.emit_uidLen (s : State) (n : Nat) (bs : List Byte) : (s.emit n bs).uidLen = s.uidLen := rfl
@[simp] theorem State.emit_flag (s : State) (n : Nat) (bs : List Byte) : (s.emit n bs).flag = s.flag := rfl
@[simp] theorem State.emit_srcIp (s : State) (n : Nat) (bs : List Byte) : (s.emit n bs).srcIp = s.srcIp := rfl
@[simp] theorem State.emit_seed (s : State) (n : Nat) (bs : List Byte) : (s.emit n bs).seed = s.seed := rfl
@[simp] theorem State.emit_mode (s : State) (n : Nat) (bs : List Byte) : (s.emit n bs).mode = s.mode := rfl
@[simp] theorem State.emit_init (s : State) (n : Nat) (bs : List Byte) : (s.emit n bs).init = s.init := rfl
@[simp] theorem State.emit_mac0 (s : State) (n : Nat) (bs : List Byte) : (s.emit n bs).mac0 = s.mac0 := rfl
@[simp] theorem State.emit_mac1 (s : State) (n : Nat) (bs : List Byte) : (s.emit n bs).mac1 = s.mac1 := rfl
@[simp] theorem State.emit_mac2 (s : State) (n : Nat) (bs : List Byte) : (s.emit n bs).mac2 = s.mac2 := rfl
@[simp] theorem State.emit_mac3 (s : State) (n : Nat) (bs : List Byte) : (s.emit n bs).mac3 = s.mac3 := rfl
@[simp] theorem State.emit_mac4 (s : State) (n : Nat) (bs : List Byte) : (s.emit n bs).mac4 = s.mac4 := rfl
@[simp] theorem State.emit_mac5 (s : State) (n : Nat) (bs : List Byte) : (s.emit n bs).mac5 = s.mac5 := rfl
@[simp] theorem State.emit_rSeed (s : State) (n : Nat) (bs : List Byte) : (s.emit n bs).rSeed = s.rSeed := rfl
@[simp] theorem State.emit_rSrcip (s : State) (n : Nat) (bs : List Byte) : (s.emit n bs).rSrcip = s.rSrcip := rfl
@[simp] theorem State.emit_rCrc (s : State) (n : Nat) (bs : List Byte) : (s.emit n bs).rCrc = s.rCrc := rfl
@[simp] theorem State.emit_rMode (s : State) (n : Nat) (bs : List Byte) : (s.emit n bs).rMode = s.rMode := rfl
@[simp] theorem State.emit_ibuf (s : State) (n : Nat) (bs : List Byte) : (s.emit n bs).ibuf = s.ibuf := rfl
@[simp] theorem State.emit_obuf (s : State) (n : Nat) (bs : List Byte) : (s.emit n bs).obuf = s.obuf.writeBytes 0 bs := rfl
@[simp] theorem State.emit_script (s : State) (n : Nat) (bs : List Byte) : (s.emit n bs).script = s.script := rfl
@[simp] theorem State.emit_turns (s : State) (n : Nat) (bs : List Byte) : (s.emit n bs).turns = s.turns := rfl
@[simp] theorem State.emit_reads (s : State) (n : Nat) (bs : List Byte) : (s.emit n bs).reads = s.reads := rfl

@[simp] theorem State.storeResponse_status (s : State) (r : U32 × U32) : (s.storeResponse r).status = s.status := rfl
@[simp] theorem State.storeResponse_ilen (s : State) (r : U32 × U32) : (s.storeResponse r).ilen = s.ilen := rfl
@[simp] theorem State.storeResponse_olen (s : State) (r : U32 × U32) : (s.storeResponse r).olen = s.olen := rfl
@[simp] theorem State.storeResponse_seq (s : State) (r : U32 × U32) : (s.storeResponse r).seq = s.seq := rfl
@[simp] theorem State.storeResponse_typeId (s : State) (r : U32 × U32) : (s.storeResponse r).typeId = s.typeId := rfl
@[simp] theorem State.storeResponse_uidLen (s : State) (r : U32 × U32) : (s.storeResponse r).uidLen = s.uidLen := rfl
@[simp] theorem State.storeResponse_flag (s : State) (r : U32 × U32) : (s.storeResponse r).flag = s.flag := rfl
@[simp] theorem State.storeResponse_srcIp (s : State) (r : U32 × U32) : (s.storeResponse r).srcIp = s.srcIp := rfl
@[simp] theorem State.storeResponse_seed (s : State) (r : U32 × U32) : (s.storeResponse r).seed = s.seed := rfl
@[simp] theorem State.storeResponse_mode (s : State) (r : U32 × U32) : (s.storeResponse r).mode = s.mode := rfl
@[simp] theorem State.storeResponse_init (s : State) (r : U32 × U32) : (s.storeResponse r).init = s.init := rfl
@[simp] theorem State.storeResponse_mac0 (s : State) (r : U32 × U32) : (s.storeResponse r).mac0 = s.mac0 := rfl
@[simp] theorem State.storeResponse_mac1 (s : State) (r : U32 × U32) : (s.storeResponse r).mac1 = s.mac1 := rfl
@[simp] theorem State.storeResponse_mac2 (s : State) (r : U32 × U32) : (s.storeResponse r).mac2 = s.mac2 := rfl
@[simp] theorem State.storeResponse_mac3 (s : State) (r : U32 × U32) : (s.storeResponse r).mac3 = s.mac3 := rfl
@[simp] theorem State.storeResponse_mac4 (s : State) (r : U32 × U32) : (s.storeResponse r).mac4 = s.mac4 := rfl
@[simp] theorem State.storeResponse_mac5 (s : State) (r : U32 × U32) : (s.storeResponse r).mac5 = s.mac5 := rfl
@[simp] theorem State.storeResponse_rSeed (s : State) (r : U32 × U32) : (s.storeResponse r).rSeed = r.1 := rfl
@[simp] theorem State.storeResponse_rSrcip (s : State) (r : U32 × U32) : (s.storeResponse r).rSrcip = r.2 := rfl
@[simp] theorem State.storeResponse_rCrc (s : State) (r : U32 × U32) : (s.storeResponse r).rCrc = s.rCrc := rfl
@[simp] theorem State.storeResponse_rMode (s : State) (r : U32 × U32) : (s.storeResponse r).rMode = s.rMode := rfl
@[simp] theorem State.storeResponse_ibuf (s : State) (r : U32 × U32) : (s.storeResponse r).ibuf = s.ibuf := rfl
@[simp] theorem State.storeResponse_obuf (s : State) (r : U32 × U32) : (s.storeResponse r).obuf = s.obuf := rfl
@[simp] theorem State.storeResponse_script (s : State) (r : U32 × U32) : (s.storeResponse r).script = s.script := rfl
@[simp] theorem State.storeResponse_turns (s : State) (r : U32 × U32) : (s.storeResponse r).turns = s.turns := rfl
@[simp] theorem State.storeResponse_reads (s : State) (r : U32 × U32) : (s.storeResponse r).reads = s.reads := rfl

@[simp] theorem State.takeTurn_status (s : State) : (s.takeTurn).status = s.status := rfl
@[simp] theorem State.takeTurn_ilen (s : State) : (s.takeTurn).ilen = s.ilen := rfl
@[simp] theorem State.takeTurn_olen (s : State) : (s.takeTurn).olen = s.olen := rfl
@[simp] theorem State.takeTurn_seq (s : State) : (s.takeTurn).seq = s.seq := rfl
@[simp] theorem State.takeTurn_typeId (s : State) : (s.takeTurn).typeId = s.typeId := rfl
@[simp] theorem State.takeTurn_uidLen (s : State) : (s.takeTurn).uidLen = s.uidLen := rfl
@[simp] theorem State.takeTurn_flag (s : State) : (s.takeTurn).flag = s.flag := rfl
@[simp] theorem State.takeTurn_srcIp (s : State) : (s.takeTurn).srcIp = s.srcIp := rfl
@[simp] theorem State.takeTurn_seed (s : State) : (s.takeTurn).seed = s.seed := rfl
@[simp] theorem State.takeTurn_mode (s : State) : (s.takeTurn).mode = s.mode := rfl
@[simp] theorem State.takeTurn_init (s : State) : (s.takeTurn).init = s.init := rfl
@[simp] theorem State.takeTurn_mac0 (s : State) : (s.takeTurn).mac0 = s.mac0 := rfl
@[simp] theorem State.takeTurn_mac1 (s : State) : (s.takeTurn).mac1 = s.mac1 := rfl
@[simp] theorem State.takeTurn_mac2 (s : State) : (s.takeTurn).mac2 = s.mac2 := rfl
@[simp] theorem State.takeTurn_mac3 (s : State) : (s.takeTurn).mac3 = s.mac3 := rfl
@[simp] theorem State.takeTurn_mac4 (s : State) : (s.takeTurn).mac4 = s.mac4 := rfl
@[simp] theorem State.takeTurn_mac5 (s : State) : (s.takeTurn).mac5 = s.mac5 := rfl
@[simp] theorem State.takeTurn_rSeed (s : State) : (s.takeTurn).rSeed = s.rSeed := rfl
@[simp] theorem State.takeTurn_rSrcip (s : State) : (s.takeTurn).rSrcip = s.rSrcip := rfl
@[simp] theorem State.takeTurn_rCrc (s : State) : (s.takeTurn).rCrc = s.rCrc := rfl
@[simp] theorem State.takeTurn_rMode (s : State) : (s.takeTurn).rMode = s.rMode := rfl
@[simp] theorem State.takeTurn_ibuf (s : State) : (s.takeTurn).ibuf = s.ibuf := rfl
@[simp] theorem State.takeTurn_obuf (s : State) : (s.takeTurn).obuf = s.obuf := rfl
@[simp] theorem State.takeTurn_script (s : State) : (s.takeTurn).script = s.script := rfl
@[simp] theorem State.takeTurn_turns (s : State) : (s.takeTurn).turns = s.turns.tail := rfl
@[simp] theorem State.takeTurn_reads (s : State) : (s.takeTurn).reads = s.reads := rfl

end Sys2Proof.Machine
end

