-- ==== Sys2Proof/Laws/Ops.lean ====
section
/-! SUPPORT. For each shared operation, what it can do, said once. -/

namespace Sys2Proof.Machine

/-- A `Complete` move ends with the outputs written and ERR 0x00, or with `raise` from the state it began in. -/
theorem State.complete_cases (s : State) (r : Except ErrCode State) :
    (∃ t, r = .ok t ∧ s.complete r = t.succeed) ∨ (∃ e, r = .error e ∧ s.complete r = s.raise e) := by
  cases r with
  | ok t => exact Or.inl ⟨t, rfl, rfl⟩
  | error e => exact Or.inr ⟨e, rfl, rfl⟩

@[simp] theorem State.complete_ok (s t : State) : s.complete (.ok t) = t.succeed := rfl

@[simp] theorem State.complete_error (s : State) (e : ErrCode) : s.complete (.error e) = s.raise e := rfl

theorem State.raise_eq_ended (s : State) (e : ErrCode) : s.raise e = s.ended e.code := rfl

theorem State.succeed_eq_ended (s : State) : s.succeed = s.ended 0x00 := rfl

/-- The bytes a command emits are in OBUF from index 0 on, and no other byte of OBUF changes. -/
theorem State.emit_overwritten (s : State) (n : Nat) (bs : List Byte) : s.obuf.Overwritten (s.emit n bs).obuf bs := by
  intro i
  simp [Memory.read_writeBytes, byteAt]

/-- A success that emits `bs` is what `EmitsOnly` says. -/
theorem emitsOnly_of_complete (s : State) {n : Nat} {bs : List Byte} (h : bs.length = n) :
    EmitsOnly (.next (s.complete (.ok (s.emit n bs)))) s bs :=
  ⟨(s.emit n bs).obuf, by subst h; rfl, s.emit_overwritten n bs⟩

theorem State.checkIlen_cases (s : State) :
    (Config.ibufCap < s.ilen.toNat ∧ s.checkIlen = .error .ilenRange) ∨
    (s.ilen.toNat ≤ Config.ibufCap ∧ s.checkIlen = .ok ()) := by
  by_cases h : Config.ibufCap < s.ilen.toNat
  · exact Or.inl ⟨h, by simp [State.checkIlen, h]⟩
  · exact Or.inr ⟨by omega, by simp [State.checkIlen, h]⟩

/-- The capacity of IBUF holds a Challenge Response (R11). -/
theorem sixteen_le_ibufCap : 16 ≤ Config.ibufCap := by simp [Config.ibufCap]

theorem State.input_eq (s : State) : s.input = inputBytes s := by
  simp [State.input, inputBytes, Memory.readBytes]

@[simp] theorem State.length_input (s : State) : s.input.length = s.ilen.toNat := by simp [State.input]

/-- Extraction succeeds exactly when eight bytes are collected. -/
theorem extract_cases (m : Mode) (d : List Byte) :
    ((collect m d).length = 8 ∧ extract m d = .ok (collect m d)) ∨
    ((collect m d).length ≠ 8 ∧ extract m d = .error .retainCount) := by
  by_cases h : (collect m d).length = 8
  · exact Or.inl ⟨h, by simp [extract, h]⟩
  · exact Or.inr ⟨h, by simp [extract, h]⟩

/-- A successful hash has eight bytes. -/
theorem hash_length {P : Params} {m : Mode} {input out : List Byte} (h : hash P m input = .ok out) : out.length = 8 := by
  rcases extract_cases m (rawDigest P m input) with ⟨hl, he⟩ | ⟨_, he⟩
  · rw [hash, he] at h
    cases h
    exact hl
  · rw [hash, he] at h
    cases h

theorem crc32_cases (bytes : List Byte) (initial : U32) :
    (bytes.length % 4 ≠ 0 ∧ crc32 bytes initial = .error .inputLengthInvalid) ∨
    (bytes.length % 4 = 0 ∧ crc32 bytes initial = .ok (xorWords bytes (bytes.length / 4) initial)) := by
  by_cases h : bytes.length % 4 ≠ 0
  · exact Or.inl ⟨h, by simp [crc32, h]⟩
  · exact Or.inr ⟨by omega, by simp [crc32, h]⟩

theorem validatePacket_cases (P : Params) (S : List Byte) (pos : Nat) :
    (S.length - pos < 1 ∧ validatePacket P S pos = .error .readOpcode) ∨
    (1 ≤ S.length - pos ∧ byteAt S pos ≠ P.opcCresp ∧ validatePacket P S pos = .error .opcodeMismatch) ∨
    (1 ≤ S.length - pos ∧ byteAt S pos = P.opcCresp ∧ validatePacket P S pos = .ok (pos + 1)) := by
  by_cases h : S.length - pos < 1
  · exact Or.inl ⟨h, by simp only [validatePacket, h, if_true]⟩
  · by_cases h2 : byteAt S pos = P.opcCresp
    · exact Or.inr (Or.inr ⟨by omega, h2, by simp only [validatePacket, h, h2, ne_eq, not_true_eq_false, if_false]⟩)
    · exact Or.inr (Or.inl ⟨by omega, h2, by
        simp only [validatePacket, h, h2, ne_eq, not_false_eq_true, if_false, if_true]⟩)

theorem readBytes_cases (S : List Byte) (pos n : Nat) (e : ErrCode) :
    (S.length - pos < n ∧ readBytes S pos n e = .error e) ∨
    (n ≤ S.length - pos ∧ readBytes S pos n e = .ok (slice S pos n, pos + n)) := by
  by_cases h : S.length - pos < n
  · exact Or.inl ⟨h, by simp [readBytes, h]⟩
  · exact Or.inr ⟨by omega, by simp [readBytes, h]⟩

/-- The eight footer bytes of mode None (R182); nothing can fail there. -/
theorem hbFoot2_none {P : Params} {q : Request} (h : hbMode q = .ok .none) :
    hbFoot2 P q =
      .ok (le32 (mul32 (xorWords (hbHeader P q ++ hbContent q ++ synth) 8 0) Config.kMul) ++ zeros 4) := by
  have h1 : hbFoot1 P q = .ok synth := by
    simp only [hbFoot1, h, bind, Except.bind]
    rfl
  have hl : (hbHeader P q ++ hbContent q ++ synth).length = 32 := rfl
  simp only [hbFoot2, h1, h, hbFallback, crc32, hl, bind, Except.bind, pure, Except.pure]
  rfl

@[simp] theorem flagOfBit_bitOfFlag (f : HbFlag) : flagOfBit (bitOfFlag f) = f := by cases f <;> rfl

/-- A host write is ignored, or the location is inside, writable and the block idle, and it is performed. -/
theorem State.hostWrite_cases (s : State) (l : Loc) (v : BitVec l.width) :
    ((l.outside = true ∨ l.access = .ro ∨ s.status.busy = true) ∧ s.hostWrite l v = s) ∨
    (l.outside = false ∧ l.access ≠ .ro ∧ s.status.busy = false ∧ s.hostWrite l v = s.store l v) := by
  unfold State.hostWrite
  by_cases h1 : l.outside = true
  · exact Or.inl ⟨Or.inl h1, by simp [h1]⟩
  · by_cases h2 : l.access = .ro
    · exact Or.inl ⟨Or.inr (Or.inl h2), by simp [h2]⟩
    · cases h3 : s.status.busy
      · exact Or.inr ⟨by simpa using h1, h2, rfl, by simp [h1, h2]⟩
      · exact Or.inl ⟨Or.inr (Or.inr rfl), by simp⟩

end Sys2Proof.Machine
end

