-- ==== Sys2Proof/Laws/PerInstr.lean ====
section
/-! SUPPORT. A property of every instruction as syntax, one lemma per constructor: its encoding has as many bytes as its
format (spec/30_encoding.md R90, R96, R97, R98). -/

namespace Sys2Proof.Laws.EncodingSize

open Sys2Proof

/-- The encoding has its format's number of bytes. -/
def Statement (i : Instr) : Prop := (encode i).length = i.format.size

theorem modesel : Statement .modesel := rfl

theorem hash : Statement .hash := rfl

theorem crc32 : Statement .crc32 := rfl

theorem encCreq : Statement .encCreq := rfl

theorem decCresp : Statement .decCresp := rfl

theorem encHb : Statement .encHb := rfl

theorem pktCreq (p : CreqPacket) : Statement (.pktCreq p) := rfl

theorem pktCresp (p : CrespPacket) : Statement (.pktCresp p) := rfl

theorem pktHb (p : HbPacket) : Statement (.pktHb p) := by
  cases p with
  | mk opc seq typeId uidLen mac srcIp flag seed checksum => cases flag <;> rfl

end Sys2Proof.Laws.EncodingSize
end

