-- ==== Sys2Proof/Laws/Step.lean ====
section
/-! SUPPORT. What one step can be, said once: every invariant is derived from `step_cases`. -/

namespace Sys2Proof.Machine

/-- A step is one of four moves: a started command runs, an illegal code completes, the core's turn passes, or the host
moves. -/
theorem step_cases (s : State) :
    (s.nextAgent = .core ∧ s.status.busy = true ∧
      ∃ i, decode .cmd8 [s.status.lastop] = .ok i ∧ step s = exec i s.takeTurn) ∨
    (s.nextAgent = .core ∧ s.status.busy = true ∧
      ∃ e, decode .cmd8 [s.status.lastop] = .error e ∧ step s = .next (s.takeTurn.raise .illegalCmd)) ∨
    (s.nextAgent = .core ∧ s.status.busy = false ∧ step s = .next s.takeTurn) ∨
    (s.nextAgent = .host ∧ step s = .next s.takeTurn.hostMove) := by
  cases ha : s.nextAgent with
  | host => exact Or.inr (Or.inr (Or.inr ⟨rfl, by simp only [step, ha]⟩))
  | core =>
    cases hb : s.status.busy with
    | false => exact Or.inr (Or.inr (Or.inl ⟨rfl, rfl, by simp [step, ha, State.coreMove, hb]⟩))
    | true =>
      cases hd : decode .cmd8 [s.status.lastop] with
      | ok i => exact Or.inl ⟨rfl, rfl, i, rfl, by simp [step, ha, State.coreMove, hb, State.completeMove, hd]⟩
      | error e =>
        exact Or.inr (Or.inl ⟨rfl, rfl, e, rfl, by simp [step, ha, State.coreMove, hb, State.completeMove, hd]⟩)

end Sys2Proof.Machine
end

