-- ==== Sys2Proof/Tests/Slice0.lean ====
section
/-! SUPPORT. Tests. Expected values are the spec's own: the encodings of spec/30_encoding.md and the vectors V<n> of
spec/95_test_vectors.md (with opcode 0x07 for all three packets, as that file takes it). Each `witness_<Name>` shows
states and operands that meet all hypotheses of `Obligations.<Name>`, at boundary values of each clause. -/

namespace Sys2Proof.Tests

open Sys2Proof Sys2Proof.Machine

/-! Helpers -/

/-- A state in which a command code has been started. -/
def running (code : Byte) : State := State.reset.start code

/-- A state whose input is `n` bytes long, the first byte of IBUF being `b`. -/
def withInput (n : Nat) (b : Byte) : State :=
  { State.reset with ilen := BitVec.ofNat 16 n, ibuf := Memory.write [] 0 b }

/-- A state whose host script is `ops`. -/
def scripted (ops : List HostOp) : State := { State.reset with script := ops }

/-- Parameters with opcode 0x07 and one fixed digest for every input (95_test_vectors.md, conventions). -/
def paramsWith (d : List Byte) : Params :=
  { opcCreq := 0x07, opcCresp := 0x07, opcHb := 0x07, digest := fun _ _ => d }

/-- Parameters that meet DIGEST_LEN_STD. -/
def stdParams : Params :=
  { opcCreq := 0x07, opcCresp := 0x07, opcHb := 0x07
    digest := fun a _ => match a with
      | .md5 => List.replicate 16 0
      | .md4 => List.replicate 16 0
      | .sha1 => List.replicate 20 0 }

theorem stdParams_std : stdParams.DigestLenStd := fun _ => ⟨rfl, rfl, rfl⟩

/-- The request of vectors V43 and V44. -/
def requestV43 (seed : U32) : Request :=
  { seq := 0x02, typeId := 0x03, uidLen := 0x00
    mac := { b0 := 0x00, b1 := 0x11, b2 := 0x22, b3 := 0x33, b4 := 0x44, b5 := 0x55 }
    ip := 0xC0A80164, flag := .first, seed := seed }

/-- The response bytes of vector V50. -/
def responseV50 : List Byte :=
  [0x07, 0x01, 0x10, 0x00, 0x06, 0x00, 0x00, 0x00, 0x79, 0x56, 0x34, 0x12, 0xC0, 0xA8, 0x01, 0x64]

/-- The packet of vector V44 with its 96 bytes. -/
def packetV44 : HbPacket :=
  { opc := 0x07, seq := 0x02, typeId := 0x03, uidLen := 0x00
    mac := { b0 := 0x00, b1 := 0x11, b2 := 0x22, b3 := 0x33, b4 := 0x44, b5 := 0x55 }
    srcIp := 0xC0A80164, flag := .first, seed := 0x12345679
    checksum := { b0 := 0x42, b1 := 0x19, b2 := 0x18, b3 := 0x23, b4 := 0x62, b5 := 0xEC, b6 := 0x9D, b7 := 0xFF } }

def bytesV44 : List Byte :=
  [0x07, 0x02, 0x60, 0x00, 0x03, 0x00, 0x00, 0x11, 0x22, 0x33, 0x44, 0x55, 0xC0, 0xA8, 0x01, 0x64, 0x00, 0x62, 0x00,
    0x2A, 0x79, 0x56, 0x34, 0x12, 0x42, 0x19, 0x18, 0x23, 0x62, 0xEC, 0x9D, 0xFF] ++ List.replicate 64 0x00

/-! Decoding: one word of every row of the opcode table, written out from its encoding -/

theorem test_decode_modesel : decodeTableWord 8 0b00000001 = some .modesel := by decide
theorem test_decode_hash : decodeTableWord 8 0b00000010 = some .hash := by decide
theorem test_decode_crc32 : decodeTableWord 8 0b00000011 = some .crc32 := by decide
theorem test_decode_encCreq : decodeTableWord 8 0b00000100 = some .encCreq := by decide
theorem test_decode_decCresp : decodeTableWord 8 0b00000101 = some .decCresp := by decide
theorem test_decode_encHb : decodeTableWord 8 0b00000110 = some .encHb := by decide

/-- V37: 07 01 08 00 01 00 00 00, byte 0 in bits 7 to 0. -/
theorem test_decode_pktCreq : decodeTableWord 64 0x0000000100080107 = some (.pktCreq { opc := 0x07, seq := 0x01 }) := by
  decide

/-- V54: the seed little-endian, the address big-endian. -/
theorem test_decode_pktCresp :
    decode .wireCresp [0x07, 0x11, 0x12, 0x13, 0x14, 0x15, 0x16, 0x17, 0x01, 0x02, 0x03, 0x04, 0x01, 0x02, 0x03, 0x04] =
      .ok (.pktCresp
        { opc := 0x07
          reserved := { b0 := 0x11, b1 := 0x12, b2 := 0x13, b3 := 0x14, b4 := 0x15, b5 := 0x16, b6 := 0x17 }
          seed := 0x04030201, srcIp := 0x01020304 }) := by decide

/-- V44. -/
theorem test_decode_pktHb : decode .wireHb bytesV44 = .ok (.pktHb packetV44) := by decide +kernel

theorem test_decode_rejects_code_zero : decode .cmd8 [0x00] = .error (.illegalCommand 0x00) := by decide
theorem test_decode_rejects_code_seven : decode .cmd8 [0x07] = .error (.illegalCommand 0x07) := by decide
theorem test_decode_rejects_short_packet : decode .wireCresp (responseV50.take 15) = .error .wrongLength := by decide
theorem test_decode_rejects_fixed_byte :
    decode .wireCreq [0x07, 0x01, 0x09, 0x00, 0x01, 0x00, 0x00, 0x00] = .error .fixedByte := by decide

/-! WellFormed refuses -/

theorem byte_succ_ne (b : Byte) : b + 1 ≠ b := by revert b; decide

theorem test_wellFormed_refuses_creq_opcode :
    ¬ (Instr.pktCreq { opc := Config.opcCreq + 1, seq := 0 }).WellFormed Config.params :=
  byte_succ_ne Config.opcCreq

theorem test_wellFormed_refuses_hb_opcode :
    ¬ (Instr.pktHb { packetV44 with opc := Config.opcHb + 1 }).WellFormed Config.params :=
  fun h => byte_succ_ne Config.opcHb h.1

/-- V44's checksum with its last byte wrong, on parameters that give V44's MD5 digest. -/
theorem test_wellFormed_refuses_hb_checksum :
    ¬ (Instr.pktHb { packetV44 with checksum := { packetV44.checksum with b7 := 0xFE } }).WellFormed
      (paramsWith [0x01, 0x6c, 0x42, 0x19, 0xa0, 0x62, 0xec, 0xd0, 0x18, 0x23, 0x52, 0x27, 0xe1, 0x9d, 0xff, 0x0b]) := by
  rintro ⟨-, h⟩
  revert h
  decide +kernel

/-! The instructions -/

/-- V21. -/
theorem test_modesel_sha1 :
    exec .modesel { running 0x01 with mode := 3 } =
      .next { State.reset with status := { busy := false, err := 0x00, lastop := 0x01 }, mode := 3, rMode := 3 } := rfl

/-- V22. -/
theorem test_modesel_four :
    exec .modesel { running 0x01 with mode := 4 } =
      .next { State.reset with status := { busy := false, err := 0x01, lastop := 0x01 }, mode := 4 } := rfl

/-- V5: the retained bytes of the MD5 digest of "1234567890". -/
theorem test_hash_md5 :
    Machine.hash (paramsWith [0xe8, 0x07, 0xf1, 0xfc, 0xf8, 0x2d, 0x13, 0x2f, 0x9b, 0xb0, 0x18, 0xca, 0x67, 0x38, 0xa1, 0x9f])
      .md5 [] = .ok [241, 252, 155, 176, 45, 19, 56, 161] := by decide

/-- V24e: a 14-byte digest misses offset 14. -/
theorem test_hash_short_digest : Machine.hash (paramsWith (List.replicate 14 0x5A)) .md5 [] = .error .retainCount := by decide

/-- V4: the sixteen bytes "1234567899999999". -/
theorem test_crc32_worked_value :
    crc32 [0x31, 0x32, 0x33, 0x34, 0x35, 0x36, 0x37, 0x38, 0x39, 0x39, 0x39, 0x39, 0x39, 0x39, 0x39, 0x39] 0 =
      .ok 201589764 := by decide

/-- V33. -/
theorem test_crc32_initial : crc32 [0x01, 0x02, 0x03, 0x04] 0xFFFFFFFF = .ok 0xFBFCFDFE := by decide

/-- V38. -/
theorem test_creq : creq (paramsWith []) 0xFF = [0x07, 0xFF, 0x08, 0x00, 0x01, 0x00, 0x00, 0x00] := by decide

/-- V50. -/
theorem test_cresp : cresp (paramsWith []) responseV50 = .ok (0x12345679, 0xC0A80164) := by decide

/-- A wrong opcode with three bytes is a mismatch, no short read (R207). -/
theorem test_cresp_mismatch_first : cresp (paramsWith []) [0x08, 0x01, 0x10] = .error .opcodeMismatch := by decide

/-- V43: bytes 24 to 31 of mode None. -/
theorem test_hb_none :
    hbFoot2 (paramsWith []) (requestV43 0x12345678) = .ok [0x32, 0x7C, 0xD5, 0x69, 0x00, 0x00, 0x00, 0x00] := by
  decide +kernel

/-- V44: the whole packet, mode MD5. -/
theorem test_hb_md5 :
    hb (paramsWith [0x01, 0x6c, 0x42, 0x19, 0xa0, 0x62, 0xec, 0xd0, 0x18, 0x23, 0x52, 0x27, 0xe1, 0x9d, 0xff, 0x0b])
      (requestV43 0x12345679) = .ok bytesV44 := by decide +kernel

/-- V65: the status word while ENC_CREQ is under way. -/
theorem test_status_word : (running 0x04).status.word = 0x00040001 := by decide

/-! Every row of the table runs as the first instruction after reset -/

/-- The step answers a next state in which no command is under way. -/
def endsIdle (o : Host.Outcome State Fault Refusal) : Bool :=
  match o with
  | .next t => !t.status.busy
  | .fault _ => false
  | .refused _ => false

theorem test_first_modesel : endsIdle (step (State.reset.withFetchWord 8 1)) = true := by decide +kernel
theorem test_first_hash : endsIdle (step (State.reset.withFetchWord 8 2)) = true := by decide +kernel
theorem test_first_crc32 : endsIdle (step (State.reset.withFetchWord 8 3)) = true := by decide +kernel
theorem test_first_encCreq : endsIdle (step (State.reset.withFetchWord 8 4)) = true := by decide +kernel
theorem test_first_decCresp : endsIdle (step (State.reset.withFetchWord 8 5)) = true := by decide +kernel
theorem test_first_encHb : endsIdle (step (State.reset.withFetchWord 8 6)) = true := by decide +kernel
theorem test_first_pktCreq : endsIdle (step (State.reset.withFetchWord 64 0x0000000100080107)) = true := by decide +kernel

/-- The step answers a next state. -/
def goesOn (o : Host.Outcome State Fault Refusal) : Bool :=
  match o with
  | .next _ => true
  | .fault _ => false
  | .refused _ => false

theorem test_first_pktCresp : goesOn (step (State.reset.withFetchWord 128 (wordOf responseV50))) = true := by
  decide +kernel
theorem test_first_pktHb : goesOn (step (State.reset.withFetchWord 768 (wordOf bytesV44))) = true := by decide +kernel

/-! Witnesses -/

theorem cap_ge (n : Nat) (h : n ≤ 16) : n ≤ Config.ibufCap := Nat.le_trans h sixteen_le_ibufCap

theorem read_withInput (n : Nat) (b : Byte) : (withInput n b).ibuf.read 0 = b := by
  simp [withInput, Memory.read_write]

theorem witness_StepRunsTheStartedCommand :
    (running 0x06).nextAgent = .core ∧ (running 0x06).status.busy = true ∧
      decode .cmd8 [(running 0x06).status.lastop] = .ok .encHb ∧ Instr.encHb.WellFormed Config.params :=
  ⟨rfl, rfl, rfl, trivial⟩

theorem witness_PlacedWordRunsFirst :
    decodeTableWord 8 6 = some .encHb ∧
      decodeTableWord 64 0x0000000100080107 = some (.pktCreq { opc := 0x07, seq := 0x01 }) := by decide

theorem witness_IllegalCodeCompletesWithError :
    (running 0x00).nextAgent = .core ∧ (running 0x00).status.busy = true ∧ (running 0x00).status.lastop = 0x00 ∧
      0x07 ≤ (running 0x07).status.lastop.toNat ∧ 0x07 ≤ (running 0xFF).status.lastop.toNat := by decide

theorem witness_EncodeOfDecodeIsTheBytes :
    decode .cmd8 [0x01] = .ok .modesel ∧ decode .wireHb bytesV44 = .ok (.pktHb packetV44) := by decide +kernel

theorem witness_ModeselWritesRModeOrFails :
    State.reset.mode.toNat < 4 ∧ ({ State.reset with mode := 3 } : State).mode.toNat < 4 ∧
      4 ≤ ({ State.reset with mode := 4 } : State).mode.toNat ∧ 4 ≤ ({ State.reset with mode := 255 } : State).mode.toNat := by
  decide

theorem witness_HashRejectsOtherSelectors : 4 ≤ ({ State.reset with mode := 4 } : State).mode.toNat := by decide

theorem witness_HashModeNoneWritesSynth :
    (withInput 16 0x31).ilen.toNat ≤ Config.ibufCap ∧ (withInput 16 0x31).mode = 0x00 :=
  ⟨cap_ge 16 (Nat.le_refl 16), rfl⟩

theorem witness_HashWritesRetainedDigestBytes :
    State.reset.ilen.toNat ≤ Config.ibufCap ∧ ({ State.reset with mode := 1 } : State).mode = 0x01 ∧
      ({ State.reset with mode := 2 } : State).mode = 0x02 ∧ ({ State.reset with mode := 3 } : State).mode = 0x03 :=
  ⟨cap_ge 0 (by decide), rfl, rfl, rfl⟩

theorem witness_HashReturnsEightBytes : stdParams.DigestLenStd := stdParams_std

theorem witness_Crc32FoldsLittleEndianWords :
    (withInput 16 0x31).ilen.toNat ≤ Config.ibufCap ∧ (withInput 16 0x31).ilen.toNat % 4 = 0 ∧
      State.reset.ilen.toNat ≤ Config.ibufCap ∧ State.reset.ilen.toNat % 4 = 0 :=
  ⟨cap_ge 16 (Nat.le_refl 16), rfl, cap_ge 0 (by decide), rfl⟩

theorem witness_Crc32RejectsOtherLengths :
    (withInput 1 0x31).ilen.toNat % 4 ≠ 0 ∧ (withInput 65535 0x31).ilen.toNat % 4 ≠ 0 := by decide

theorem witness_FoldLawsOfCrc32 :
    List.Perm [(1 : U32), 2] [2, 1] ∧ ([1, 2, 3, 4] : List Byte).length % 4 = 0 :=
  ⟨List.Perm.swap 2 1 [], rfl⟩

theorem witness_DecCrespDeliversSeedAndAddress :
    16 ≤ (withInput 16 Config.opcCresp).ilen.toNat ∧ (withInput 16 Config.opcCresp).ilen.toNat ≤ Config.ibufCap ∧
      (withInput 16 Config.opcCresp).ibuf.read 0 = Config.opcCresp :=
  ⟨Nat.le_refl 16, cap_ge 16 (Nat.le_refl 16), read_withInput 16 Config.opcCresp⟩

theorem witness_DecCrespErrorsByLengthAndOpcode_empty : (withInput 0 Config.opcCresp).ilen.toNat = 0 := rfl

theorem witness_DecCrespErrorsByLengthAndOpcode_mismatch :
    1 ≤ (withInput 1 (Config.opcCresp + 1)).ilen.toNat ∧ (withInput 1 (Config.opcCresp + 1)).ilen.toNat ≤ Config.ibufCap ∧
      (withInput 1 (Config.opcCresp + 1)).ibuf.read 0 ≠ Config.opcCresp :=
  ⟨Nat.le_refl 1, cap_ge 1 (by decide), by rw [read_withInput]; exact byte_succ_ne Config.opcCresp⟩

theorem witness_DecCrespErrorsByLengthAndOpcode_short :
    (withInput 1 Config.opcCresp).ilen.toNat = 1 ∧ (withInput 7 Config.opcCresp).ilen.toNat = 7 ∧
      (withInput 8 Config.opcCresp).ilen.toNat = 8 ∧ (withInput 11 Config.opcCresp).ilen.toNat = 11 ∧
      (withInput 12 Config.opcCresp).ilen.toNat = 12 ∧ (withInput 15 Config.opcCresp).ilen.toNat = 15 ∧
      ∀ n, (withInput n Config.opcCresp).ibuf.read 0 = Config.opcCresp :=
  ⟨rfl, rfl, rfl, rfl, rfl, rfl, fun n => read_withInput n Config.opcCresp⟩

theorem witness_ChallengeResponseRoundTrip : (List.replicate 7 (0 : Byte)).length = 7 := rfl

theorem witness_EncHbModeNoneEmitsFoldProduct :
    State.reset.seed.toNat % 3 = 0 ∧ ({ State.reset with seed := 0xFFFFFFFF } : State).seed.toNat % 3 = 0 := by decide

theorem witness_EncHbDigestModesEmitRetainedBytes :
    ({ State.reset with seed := 1 } : State).seed.toNat % 3 ≠ 0 ∧
      ({ State.reset with seed := 0xFFFFFFFE } : State).seed.toNat % 3 ≠ 0 := by decide

theorem witness_HeartbeatPacketLaws : ∃ out, hb stdParams (requestV43 0x12345678) = .ok out := ⟨_, rfl⟩

theorem witness_HeartbeatEncodingIsTotal :
    stdParams.DigestLenStd ∧ (requestV43 0x12345678).seed.toNat % 3 = 0 := ⟨stdParams_std, rfl⟩

theorem witness_HeartbeatFoldIsNotInjective : (requestV43 0x12345678).seed.toNat % 3 = 0 := rfl

theorem witness_PktCrespDeliversItsFields :
    ({ opc := Config.opcCresp, reserved := ⟨0, 0, 0, 0, 0, 0, 0⟩, seed := 0, srcIp := 0 } : CrespPacket).opc =
      Config.opcCresp := rfl

theorem witness_PktCrespRejectsOtherOpcode :
    ({ opc := Config.opcCresp + 1, reserved := ⟨0, 0, 0, 0, 0, 0, 0⟩, seed := 0, srcIp := 0 } : CrespPacket).opc ≠
      Config.opcCresp := byte_succ_ne Config.opcCresp

theorem witness_PktHbModeNoneEmitsItsPacket : ({ packetV44 with seed := 3 } : HbPacket).seed.toNat % 3 = 0 := by decide

theorem witness_PktHbDigestModesEmitItsPacket :
    packetV44.seed.toNat % 3 ≠ 0 ∧ ({ packetV44 with seed := 0xFFFFFFFE } : HbPacket).seed.toNat % 3 ≠ 0 := by decide

/-- The eight bytes as a field. -/
def bytes8 (l : List Byte) : Bytes8 :=
  { b0 := byteAt l 0, b1 := byteAt l 1, b2 := byteAt l 2, b3 := byteAt l 3, b4 := byteAt l 4, b5 := byteAt l 5,
    b6 := byteAt l 6, b7 := byteAt l 7 }

/-- The packet of V43 with this instance's opcode and the checksum that the closed form gives. -/
def packetNone : HbPacket :=
  { packetV44 with
    opc := Config.opcHb, seed := 0x12345678
    checksum := bytes8 (le32 (mul32 (xorWords
      (hbHeader Config.params (requestV43 0x12345678) ++ hbContent (requestV43 0x12345678) ++ synth) 8 0) Config.kMul) ++
      zeros 4) }

theorem bytes8_toList (v : U32) : (bytes8 (le32 v ++ zeros 4)).toList = le32 v ++ zeros 4 := rfl

theorem packetNone_wellFormed : packetNone.WellFormed Config.params :=
  ⟨rfl, (hbFoot2_none (P := Config.params) (q := requestV43 0x12345678) rfl).trans (congrArg Except.ok (bytes8_toList _).symm)⟩

theorem witness_WellFormedPacketIsEmittedAsEncoded :
    (Instr.pktCreq { opc := Config.opcCreq, seq := 0 }).WellFormed Config.params ∧
      (Instr.pktHb packetNone).WellFormed Config.params ∧
      (Instr.pktCreq { opc := Config.opcCreq, seq := 0 }).format = .wireCreq ∧ (Instr.pktHb packetNone).format = .wireHb :=
  ⟨rfl, packetNone_wellFormed, rfl, rfl⟩

theorem witness_IlenRangeErrorExactly : ∃ t, exec .hash State.reset = .next t := ⟨_, rfl⟩

theorem witness_FailureChangesStatusOnly :
    ∃ t, exec .modesel { State.reset with mode := 4 } = .next t ∧ t.status.err ≠ 0x00 := ⟨_, rfl, by decide⟩

theorem witness_OperandsAreNeverWritten : ∃ t, exec .encHb State.reset = .next t := ⟨_, rfl⟩

/-- ENC_HB from two states that differ in ILEN, MODE and INIT, which it does not read. -/
theorem witness_ResultsDependOnListedOperandsOnly :
    AgreeOnReads .encHb State.reset { State.reset with ilen := 0xFFFF, mode := 0xFF, init := 0xFFFFFFFF } ∧
      (∃ t, exec .encHb State.reset = .next t) ∧
      ∃ t, exec .encHb { State.reset with ilen := 0xFFFF, mode := 0xFF, init := 0xFFFFFFFF } = .next t :=
  ⟨⟨rfl, rfl, rfl, rfl, rfl, rfl, rfl, rfl, rfl, rfl, rfl, rfl⟩, ⟨_, rfl⟩, ⟨_, rfl⟩⟩

theorem witness_HostTurnPerformsNextOperation :
    HostsNext (scripted [.poll]) .poll [] ∧ State.reset.nextAgent = .host ∧ State.reset.script = [] :=
  ⟨⟨rfl, rfl⟩, rfl, rfl⟩

theorem witness_CmdWriteStartsTheCommand :
    State.reset.status.busy = false ∧ (running 0x04).status.busy = true := by decide

theorem witness_IgnoredWritesAndOutsideReads :
    (Loc.obuf 96).outside = true ∧ (Loc.reg .status).access = .ro ∧ (Loc.obuf 0).access = .ro ∧
      (running 0x04).status.busy = true ∧ (Loc.unassigned ⟨0x1E, by decide⟩ 8).outside = true :=
  ⟨rfl, rfl, rfl, rfl, rfl⟩

theorem witness_WriteIsReadBackAndNothingElseMoves :
    (Loc.reg .flag).outside = false ∧ (Loc.reg .flag).access = .rw ∧ (Loc.ibuf 15).outside = false ∧
      (Loc.ibuf 15).access = .rw ∧ State.reset.status.busy = false :=
  ⟨rfl, rfl, by have := sixteen_le_ibufCap; simp only [Loc.outside, decide_eq_false_iff_not]; omega, rfl, rfl⟩

theorem witness_BusyWindowIgnoresHostWrites :
    HostsNext { running 0x04 with turns := [.host], script := [.move (.read (.reg .seq))] } (.move (.read (.reg .seq))) [] ∧
      (running 0x04).status.busy = true ∧ HostMove.read (.reg .seq) ≠ .reset :=
  ⟨⟨rfl, rfl⟩, rfl, by decide⟩

theorem witness_ResetMoveRestoresEveryLocation :
    HostsNext { running 0x06 with turns := [.host], script := [.move .reset] } (.move .reset) [] := ⟨rfl, rfl⟩

theorem witness_ReadHasNoSideEffect :
    HostsNext (scripted [.move (.read (.obuf 95))]) (.move (.read (.obuf 95))) [] := ⟨rfl, rfl⟩

theorem witness_WaitRepeatsWhileBusy :
    HostsNext (scripted [.poll]) .poll [] ∧
      HostsNext { running 0x06 with turns := [.host], script := [.poll] } .poll [] := ⟨⟨rfl, rfl⟩, ⟨rfl, rfl⟩⟩

theorem witness_MovCopiesTheRegister :
    let s := scripted (Line.expand (.mov .seed .rSeed))
    s.status.busy = false ∧ s.turns = [] ∧ Reg.seed.access = .rw ∧ Reg.seed.width = Reg.rSeed.width ∧
      s.script = Line.expand (.mov .seed .rSeed) ++ [] := ⟨rfl, rfl, rfl, rfl, rfl⟩

theorem witness_LoadFillsTheInput :
    let s := scripted (Line.expand (.load responseV50))
    s.status.busy = false ∧ s.turns = [] ∧ responseV50.length ≤ Config.ibufCap ∧
      s.script = Line.expand (.load responseV50) ++ [] :=
  ⟨rfl, rfl, cap_ge 16 (Nat.le_refl 16), rfl⟩

theorem witness_RunLineStartsWaitsAndEnds :
    let s := scripted (Line.expand (.run .encHb))
    s.status.busy = false ∧ s.turns = [] ∧ s.script = Line.expand (.run .encHb) ++ [] := ⟨rfl, rfl, rfl⟩

theorem witness_StepKeepsBuffersCanonical :
    State.reset.BuffersCanonical ∧ step State.reset = .next State.reset := ⟨⟨rfl, rfl, rfl, rfl⟩, rfl⟩

theorem witness_StepKeepsOlenAndErrLegal :
    (running 0x04).LegalOlenErr ∧ ∃ t, step (running 0x04) = .next t := ⟨⟨Or.inl rfl, by decide⟩, ⟨_, rfl⟩⟩

theorem witness_StepKeepsErrInTheRowOfLastop :
    (running 0x04).ErrFitsLastop ∧ ∃ t, step (running 0x04) = .next t := ⟨fun h => absurd h (by decide), ⟨_, rfl⟩⟩

theorem witness_StartedCommandEnds : (running 0x02).status.busy = true := rfl

/-- One state: busy with ENC_CREQ, one turn of the host before the core's, and a CMD write pending. -/
theorem witness_HostCannotDisturbAStartedCommand :
    let s : State := { running 0x04 with turns := [.host, .core], script := [HostOp.command .encHb] }
    s.status.busy = true ∧ s.turns = List.replicate 1 .host ++ .core :: [] ∧ HostOp.move .reset ∉ s.script :=
  ⟨rfl, rfl, by decide⟩

end Sys2Proof.Tests
end

/-! PROOFS of the family 10_state.md. What every instruction and every host operation can do, said once (`exec_cases`,
`HostEffect`), the induction step of an invariant (`KeptByMoves.step`), and the statements settled with them. -/

namespace Sys2Proof.Machine

/-! The result type of the pure functions -/

/-- A sequence that answered went through: its first part answered, and the rest did on that answer. -/
theorem except_bind_eq_ok {ε α β : Type} {x : Except ε α} {f : α → Except ε β} {b : β} :
    (x >>= f) = .ok b ↔ ∃ a, x = .ok a ∧ f a = .ok b := by
  cases x with
  | ok a => simp [bind, Except.bind]
  | error e => simp [bind, Except.bind]

/-! How long an emitted packet is -/

@[simp] theorem length_creq (P : Params) (seq : Byte) : (creq P seq).length = 8 := rfl

@[simp] theorem length_hbHeader (P : Params) (q : Request) : (hbHeader P q).length = 4 := rfl

@[simp] theorem length_hbContent (q : Request) : (hbContent q).length = 20 := rfl

theorem length_hbFoot1 {P : Params} {q : Request} {f1 : List Byte} (h : hbFoot1 P q = .ok f1) : f1.length = 8 := by
  obtain ⟨m, -, hhash⟩ := except_bind_eq_ok.mp h
  exact hash_length hhash

theorem length_hbFallback {P : Params} {q : Request} {f1 out : List Byte} (h : hbFallback P q f1 = .ok out) :
    out.length = 8 := by
  obtain ⟨c, -, hout⟩ := except_bind_eq_ok.mp h
  cases hout
  simp

/-- Both ways to the checksum field give eight bytes (R182). -/
theorem length_hbFoot2 {P : Params} {q : Request} {f2 : List Byte} (h : hbFoot2 P q = .ok f2) : f2.length = 8 := by
  obtain ⟨f1, hf1, h⟩ := except_bind_eq_ok.mp h
  obtain ⟨m, -, h⟩ := except_bind_eq_ok.mp h
  split at h
  · exact length_hbFallback h
  · cases h
    exact length_hbFoot1 hf1

theorem length_hb {P : Params} {q : Request} {out : List Byte} (h : hb P q = .ok out) : out.length = 96 := by
  obtain ⟨footer, hfooter, hout⟩ := except_bind_eq_ok.mp h
  obtain ⟨f2, hf2, hpad⟩ := except_bind_eq_ok.mp hfooter
  cases hpad
  cases hout
  simp [length_hbFoot2 hf2, Config.kPadLen]

/-! What an instruction can do -/

/-- The outputs of a success, before STATUS is set (spec/30_encoding.md R92): one result register, the two of a parsed
response, or a packet of 8 or 96 bytes with its length in OLEN. -/
inductive OutputsWritten (s : State) : State → Prop where
  | rMode (v : BitVec 2) : OutputsWritten s { s with rMode := v }
  | rCrc (v : U32) : OutputsWritten s { s with rCrc := v }
  | response (r : U32 × U32) : OutputsWritten s (s.storeResponse r)
  | packet (n : Nat) (bytes : List Byte) (hn : n = 8 ∨ n = 96) (hlen : bytes.length = n) :
      OutputsWritten s (s.emit n bytes)

/-- An outcome that ends a `Complete` move begun in `s`, with nothing but outputs written where it succeeds. -/
def CompletesFrom (s : State) (o : Host.Outcome State Fault Refusal) : Prop :=
  ∃ r, o = .next (s.complete r) ∧ ∀ u, r = .ok u → OutputsWritten s u

theorem execModesel_completes (s : State) : CompletesFrom s (execModesel s) := by
  refine ⟨_, rfl, fun u h => ?_⟩
  obtain ⟨m, -, hu⟩ := except_bind_eq_ok.mp h
  cases hu
  exact .rMode m.number

theorem execHash_completes (s : State) : CompletesFrom s (execHash s) := by
  refine ⟨_, rfl, fun u h => ?_⟩
  obtain ⟨-, -, h⟩ := except_bind_eq_ok.mp h
  obtain ⟨m, -, h⟩ := except_bind_eq_ok.mp h
  obtain ⟨out, hout, hu⟩ := except_bind_eq_ok.mp h
  cases hu
  exact .packet 8 out (.inl rfl) (hash_length hout)

theorem execCrc32_completes (s : State) : CompletesFrom s (execCrc32 s) := by
  refine ⟨_, rfl, fun u h => ?_⟩
  obtain ⟨-, -, h⟩ := except_bind_eq_ok.mp h
  obtain ⟨c, -, hu⟩ := except_bind_eq_ok.mp h
  cases hu
  exact .rCrc c

/-- ENC_CREQ and PKT_CREQ: the same end for any sequence number. -/
theorem emitCreq_completes (s : State) (seq : Byte) :
    CompletesFrom s (.next (s.complete (.ok (s.emit 8 (creq Config.params seq))))) := by
  refine ⟨_, rfl, fun u h => ?_⟩
  cases h
  exact .packet 8 _ (.inl rfl) (length_creq _ _)

theorem execDecCresp_completes (s : State) : CompletesFrom s (execDecCresp s) := by
  refine ⟨_, rfl, fun u h => ?_⟩
  obtain ⟨-, -, h⟩ := except_bind_eq_ok.mp h
  obtain ⟨r, -, hu⟩ := except_bind_eq_ok.mp h
  cases hu
  exact .response r

theorem execPktCresp_completes (p : CrespPacket) (s : State) : CompletesFrom s (execPktCresp p s) := by
  refine ⟨_, rfl, fun u h => ?_⟩
  obtain ⟨r, -, hu⟩ := except_bind_eq_ok.mp h
  cases hu
  exact .response r

/-- ENC_HB and PKT_HB: the same end for any request. -/
theorem emitHb_completes (s : State) (q : Request) :
    CompletesFrom s (.next (s.complete (do
      let pkt ← hb Config.params q
      return s.emit 96 pkt))) := by
  refine ⟨_, rfl, fun u h => ?_⟩
  obtain ⟨pkt, hpkt, hu⟩ := except_bind_eq_ok.mp h
  cases hu
  exact .packet 96 pkt (.inr rfl) (length_hb hpkt)

theorem exec_completes (i : Instr) (s : State) : CompletesFrom s (exec i s) := by
  cases i with
  | modesel => exact execModesel_completes s
  | hash => exact execHash_completes s
  | crc32 => exact execCrc32_completes s
  | encCreq => exact emitCreq_completes s s.seq
  | decCresp => exact execDecCresp_completes s
  | encHb => exact emitHb_completes s s.request
  | pktCreq p => exact emitCreq_completes s p.seq
  | pktCresp p => exact execPktCresp_completes p s
  | pktHb p => exact emitHb_completes s p.request

/-- An instruction ends with its outputs written and ERR 0x00, or with `raise` from the state it began in. -/
theorem exec_cases (i : Instr) (s : State) :
    (∃ u, OutputsWritten s u ∧ exec i s = .next u.succeed) ∨ (∃ e, exec i s = .next (s.raise e)) := by
  obtain ⟨r, hexec, hout⟩ := exec_completes i s
  rw [hexec]
  cases r with
  | ok u => exact .inl ⟨u, hout u rfl, rfl⟩
  | error e => exact .inr ⟨e, rfl⟩

/-! What a register write leaves unchanged -/

@[simp] theorem State.writeReg_ibuf (s : State) (r : Reg) (v : BitVec r.width) : (s.writeReg r v).ibuf = s.ibuf := by
  cases r <;> rfl

@[simp] theorem State.writeReg_obuf (s : State) (r : Reg) (v : BitVec r.width) : (s.writeReg r v).obuf = s.obuf := by
  cases r <;> rfl

/-- A CMD write too leaves ERR as it was (R25). -/
@[simp] theorem State.writeReg_err (s : State) (r : Reg) (v : BitVec r.width) :
    (s.writeReg r v).status.err = s.status.err := by
  cases r <;> rfl

theorem State.writeReg_olen {s : State} {r : Reg} {v : BitVec r.width} (hr : r ≠ .olen) :
    (s.writeReg r v).olen = s.olen := by
  cases r with
  | olen => exact absurd rfl hr
  | _ => rfl

/-! What a move of the host can do -/

theorem State.hostWrite_of_busy {s : State} {l : Loc} {v : BitVec l.width} (hb : s.status.busy = true) :
    s.hostWrite l v = s := by
  rcases s.hostWrite_cases l v with ⟨-, h⟩ | ⟨-, -, hidle, -⟩
  · exact h
  · simp [hb] at hidle

theorem State.hostWrite_of_idle {s : State} {l : Loc} {v : BitVec l.width} (ho : l.outside = false)
    (ha : l.access ≠ .ro) (hb : s.status.busy = false) : s.hostWrite l v = s.store l v := by
  rcases s.hostWrite_cases l v with ⟨hign, -⟩ | ⟨-, -, -, h⟩
  · simp [ho, ha, hb] at hign
  · exact h

/-- What one operation of the host can make of the block (R61, R240): nothing, a write to a register that is not
read-only, a byte stored inside IBUF, or the reset state. -/
inductive HostEffect (s : State) : State → Prop where
  | unchanged {t : State} (h : SameBlock s t) : HostEffect s t
  | wroteReg (r : Reg) (v : BitVec r.width) (hr : r.access ≠ .ro) (hidle : s.status.busy = false) :
      HostEffect s (s.writeReg r v)
  | wroteIbuf (i : Nat) (b : Byte) (hi : i < Config.ibufCap) (hidle : s.status.busy = false) :
      HostEffect s { s with ibuf := s.ibuf.write i b }
  | wasReset {t : State} (h : SameBlock State.reset t) : HostEffect s t

theorem State.hostWrite_effect (s : State) (l : Loc) (v : BitVec l.width) : HostEffect s (s.hostWrite l v) := by
  rcases s.hostWrite_cases l v with ⟨-, h⟩ | ⟨hinside, hwritable, hidle, h⟩
  · rw [h]
    exact .unchanged rfl
  · rw [h]
    cases l with
    | reg r => exact .wroteReg r v hwritable hidle
    | unassigned n asked => exact absurd rfl hwritable
    | ibuf i => exact .wroteIbuf i v (by simpa [Loc.outside] using hinside) hidle
    | obuf i => exact absurd rfl hwritable

theorem State.perform_effect (s : State) (m : HostMove) : HostEffect s (s.perform m) := by
  cases m with
  | write l v => exact s.hostWrite_effect l v
  | read l => exact .unchanged rfl
  | reset => exact .wasReset rfl

/-- One poll of STATUS touches the host agent's own fields only. -/
theorem State.pollStatus_sameBlock (s : State) : SameBlock s s.pollStatus := by
  unfold State.pollStatus
  dsimp only
  split <;> rfl

theorem State.writeBack_effect (s : State) (dst : Reg) : HostEffect s (s.writeBack dst) := by
  unfold State.writeBack
  split
  · exact .unchanged rfl
  · exact s.hostWrite_effect _ _

theorem State.performOp_effect (s : State) (op : HostOp) : HostEffect s (s.performOp op) := by
  cases op with
  | move m => exact s.perform_effect m
  | poll => exact .unchanged s.pollStatus_sameBlock
  | writeBack dst => exact s.writeBack_effect dst

theorem State.hostMove_nil {s : State} (h : s.script = []) : s.hostMove = s := by
  simp only [State.hostMove, h]

theorem State.hostMove_cons {s : State} {op : HostOp} {rest : List HostOp} (h : s.script = op :: rest) :
    s.hostMove = State.performOp { s with script := rest } op := by
  simp only [State.hostMove, h]

theorem step_of_host {s : State} (h : s.nextAgent = .host) : step s = .next s.takeTurn.hostMove := by
  simp only [step, h]

/-! Predicates that every step keeps -/

/-- A predicate of the block that every effect of the host and every end of a command keeps. -/
structure KeptByMoves (P : State → Prop) : Prop where
  sameBlock : ∀ {s t : State}, SameBlock s t → P s → P t
  reset : P State.reset
  writeReg : ∀ {s : State} (r : Reg) (v : BitVec r.width), r.access ≠ .ro → P s → P (s.writeReg r v)
  writeIbuf : ∀ {s : State} (i : Nat) (b : Byte), i < Config.ibufCap → P s → P { s with ibuf := s.ibuf.write i b }
  outputs : ∀ {s u : State}, OutputsWritten s u → P s → P u.succeed
  raise : ∀ {s : State} (e : ErrCode), P s → P (s.raise e)

namespace KeptByMoves

variable {P : State → Prop}

theorem hostEffect (hP : KeptByMoves P) {s t : State} (h : HostEffect s t) (hs : P s) : P t := by
  cases h with
  | unchanged h => exact hP.sameBlock h hs
  | wroteReg r v hr _ => exact hP.writeReg r v hr hs
  | wroteIbuf i b hi _ => exact hP.writeIbuf i b hi hs
  | wasReset h => exact hP.sameBlock h hP.reset

theorem hostMove (hP : KeptByMoves P) {s : State} (hs : P s) : P s.hostMove := by
  cases hscript : s.script with
  | nil =>
    rw [State.hostMove_nil hscript]
    exact hs
  | cons op rest =>
    rw [State.hostMove_cons hscript]
    exact hP.hostEffect (State.performOp_effect _ op) (hP.sameBlock rfl hs)

theorem exec (hP : KeptByMoves P) {i : Instr} {s t : State} (h : exec i s = .next t) (hs : P s) : P t := by
  rcases exec_cases i s with ⟨u, hu, hexec⟩ | ⟨e, hexec⟩
  · cases hexec.symm.trans h
    exact hP.outputs hu hs
  · cases hexec.symm.trans h
    exact hP.raise e hs

/-- The induction step of every such invariant: one step of the machine keeps it. -/
theorem step (hP : KeptByMoves P) {s t : State} (h : step s = .next t) (hs : P s) : P t := by
  have hturn : P s.takeTurn := hP.sameBlock rfl hs
  rcases step_cases s with ⟨-, -, i, -, hrun⟩ | ⟨-, -, e, -, hillegal⟩ | ⟨-, -, hpass⟩ | ⟨-, hhost⟩
  · exact hP.exec (hrun.symm.trans h) hturn
  · cases hillegal.symm.trans h
    exact hP.raise .illegalCmd hturn
  · cases hpass.symm.trans h
    exact hturn
  · cases hhost.symm.trans h
    exact hP.hostMove hturn

end KeptByMoves

/-! The buffers (R45, R46) -/

theorem buffersCanonical_writeIbuf {s : State} {i : Nat} {b : Byte} (hi : i < Config.ibufCap)
    (hs : s.BuffersCanonical) : ({ s with ibuf := s.ibuf.write i b } : State).BuffersCanonical := by
  obtain ⟨hiwf, hiin, hobuf⟩ := hs
  exact ⟨Memory.wf_write hiwf i b, Memory.within_write hiin hi b, hobuf⟩

theorem buffersCanonical_emit {s : State} {n : Nat} {bytes : List Byte} (hlen : bytes.length ≤ Config.obufSize)
    (hs : s.BuffersCanonical) : (s.emit n bytes).BuffersCanonical := by
  obtain ⟨hiwf, hiin, howf, hoin⟩ := hs
  exact ⟨hiwf, hiin, Memory.wf_writeBytes howf 0 bytes, Memory.within_writeBytes hoin (by omega)⟩

/-- The only outputs stored in a buffer are packets, and none is longer than OBUF. -/
theorem buffersCanonical_outputs {s u : State} (h : OutputsWritten s u) (hs : s.BuffersCanonical) :
    u.succeed.BuffersCanonical := by
  cases h with
  | rMode v => exact hs
  | rCrc v => exact hs
  | response r => exact hs
  | packet n bytes hn hlen =>
    have hfits : bytes.length ≤ Config.obufSize := by
      simp only [Config.obufSize]
      omega
    exact buffersCanonical_emit (n := n) hfits hs

theorem buffersCanonical_kept : KeptByMoves State.BuffersCanonical where
  sameBlock h hs := by rw [h]; exact hs
  reset := ⟨rfl, rfl, rfl, rfl⟩
  writeReg r v _ hs := by simpa only [State.BuffersCanonical, State.writeReg_ibuf, State.writeReg_obuf] using hs
  writeIbuf _ _ hi hs := buffersCanonical_writeIbuf hi hs
  outputs h hs := buffersCanonical_outputs h hs
  raise _ hs := hs

/-- Settles O52: no move stores outside a buffer, and every store keeps the canonical form. -/
theorem stepKeepsBuffersCanonical : Obligations.StepKeepsBuffersCanonical :=
  fun _ _ hs h => buffersCanonical_kept.step h hs

/-! OLEN and ERR (R28, R201) -/

theorem okCode_mem_errValues : okCode ∈ errValues := by decide

theorem ErrCode.code_mem_errValues (e : ErrCode) : e.code ∈ errValues := by cases e <;> decide

theorem olen_of_outputs {s u : State} (h : OutputsWritten s u) : u.olen = s.olen ∨ u.olen = 8 ∨ u.olen = 96 := by
  cases h with
  | rMode v => exact .inl rfl
  | rCrc v => exact .inl rfl
  | response r => exact .inl rfl
  | packet n bytes hn _ =>
    rcases hn with rfl | rfl
    · exact .inr (.inl rfl)
    · exact .inr (.inr rfl)

/-- A command that succeeds leaves OLEN or sets it to the length of its packet, and sets ERR to OK. -/
theorem legalOlenErr_outputs {s u : State} (h : OutputsWritten s u) (hs : s.LegalOlenErr) : u.succeed.LegalOlenErr := by
  obtain ⟨holen, -⟩ := hs
  refine ⟨?_, okCode_mem_errValues⟩
  rcases olen_of_outputs h with hkeep | hset
  · rw [State.succeed_olen, hkeep]
    exact holen
  · exact .inr hset

/-- OLEN is read-only, and no host write changes ERR. -/
theorem legalOlenErr_writeReg {s : State} {r : Reg} {v : BitVec r.width} (hr : r.access ≠ .ro)
    (hs : s.LegalOlenErr) : (s.writeReg r v).LegalOlenErr := by
  have hne : r ≠ .olen := by
    rintro rfl
    exact hr rfl
  rw [State.LegalOlenErr, State.writeReg_olen hne, State.writeReg_err]
  exact hs

theorem legalOlenErr_kept : KeptByMoves State.LegalOlenErr where
  sameBlock h hs := by rw [h]; exact hs
  reset := ⟨.inl rfl, okCode_mem_errValues⟩
  writeReg _ _ hr hs := legalOlenErr_writeReg hr hs
  writeIbuf _ _ _ hs := hs
  outputs h hs := legalOlenErr_outputs h hs
  raise e hs := ⟨hs.left, e.code_mem_errValues⟩

/-- Settles O53: OLEN is set by emitting a packet only, ERR by the two ends of a command only. -/
theorem stepKeepsOlenAndErrLegal : Obligations.StepKeepsOlenAndErrLegal :=
  fun _ _ hs h => legalOlenErr_kept.step h hs

/-! STATUS (R26) -/

/-- The number that the fields of STATUS make. -/
theorem Status.word_toNat (st : Status) :
    st.word.toNat = st.busy.toNat + 256 * st.err.toNat + 65536 * st.lastop.toNat := by
  have hbusy := st.busy.toNat_lt
  have herr := st.err.isLt
  have hlastop := st.lastop.isLt
  simp only [Status.word, BitVec.toNat_append, BitVec.toNat_ofBool, BitVec.toNat_ofNat]
  rw [← Nat.shiftLeft_add_eq_or_of_lt (by omega), ← Nat.shiftLeft_add_eq_or_of_lt (by omega),
    ← Nat.shiftLeft_add_eq_or_of_lt (by omega), ← Nat.shiftLeft_add_eq_or_of_lt (by omega)]
  simp only [Nat.shiftLeft_eq]
  omega

/-- A field of a word, from the digits of the word's number. -/
theorem extractLsb'_eq_of_toNat {w : U32} {lo n : Nat} {field : BitVec n}
    (h : w.toNat / 2 ^ lo % 2 ^ n = field.toNat) : w.extractLsb' lo n = field := by
  apply BitVec.eq_of_toNat_eq
  rw [BitVec.extractLsb'_toNat, Nat.shiftRight_eq_div_pow, h]

/-- R26, field by field. -/
theorem Status.word_fields (st : Status) :
    st.word.getLsbD 0 = st.busy ∧ st.word.extractLsb' 1 7 = 0 ∧ st.word.extractLsb' 8 8 = st.err ∧
      st.word.extractLsb' 16 8 = st.lastop ∧ st.word.extractLsb' 24 8 = 0 := by
  have hword := st.word_toNat
  have hbusy := st.busy.toNat_lt
  have herr := st.err.isLt
  have hlastop := st.lastop.isLt
  refine ⟨?busy, extractLsb'_eq_of_toNat ?low, extractLsb'_eq_of_toNat ?err, extractLsb'_eq_of_toNat ?lastop,
    extractLsb'_eq_of_toNat ?high⟩
  case busy => exact BitVec.getLsbD_append.trans (by simp)
  case low => rw [BitVec.ofNat_eq_ofNat, BitVec.toNat_zero]; omega
  case err => omega
  case lastop => omega
  case high => rw [BitVec.ofNat_eq_ofNat, BitVec.toNat_zero]; omega

/-- Settles O41: a read of STATUS returns its word. -/
theorem statusWordHasItsFields : Obligations.StatusWordHasItsFields :=
  fun s => s.status.word_fields

/-- Settles O38: the host's turn is `hostMove` on the state with the turn taken off. -/
theorem hostTurnPerformsNextOperation : Obligations.HostTurnPerformsNextOperation := by
  refine ⟨?_, ?_⟩
  · rintro s op rest ⟨hagent, hscript⟩
    have hnext : s.takeTurn.script = op :: rest := hscript
    rw [step_of_host hagent, State.hostMove_cons hnext]
    rfl
  · intro s hagent hscript
    have hnone : s.takeTurn.script = [] := hscript
    rw [step_of_host hagent, State.hostMove_nil hnone]
    rfl

/-- Settles O39: CMD is inside and writable, so only BUSY decides whether the write starts a command. -/
theorem cmdWriteStartsTheCommand : Obligations.CmdWriteStartsTheCommand := by
  intro s c
  have hwritable : (Loc.reg .cmd).access ≠ .ro := by decide
  exact ⟨State.hostWrite_of_idle rfl hwritable, State.hostWrite_of_busy, rfl⟩

/-! The register map (R48, R62) -/

theorem Reg.ofNumber_number (r : Reg) : Reg.ofNumber r.number = some r := by
  cases r <;> rfl

theorem Reg.ofNumber_eq_none_iff (n : Byte) : Reg.ofNumber n = none ↔
    (0x04 ≤ n.toNat ∧ n.toNat ≤ 0x0F) ∨ n = 0x1E ∨ n = 0x1F ∨ 0x24 ≤ n.toNat := by
  simp only [Reg.ofNumber, Reg.all, List.find?_eq_none, List.forall_mem_cons, Reg.number, beq_iff_eq,
    ← BitVec.toNat_inj, BitVec.ofNat_eq_ofNat, BitVec.toNat_ofNat, List.not_mem_nil, false_implies, implies_true,
    and_true]
  omega

/-- Settles O42. The lookup fails exactly at the numbers no entry of `Reg.all` has. -/
theorem registerNumbersAreTheMap : Obligations.RegisterNumbersAreTheMap :=
  ⟨Reg.ofNumber_number, Reg.ofNumber_eq_none_iff⟩

end Sys2Proof.Machine

/-! PROOFS of the family 20_memory.md. What a read returns after a write, said once per space (`readReg_writeReg`,
`hostRead_writeIbuf`); what the host's operations leave while a command is under way (`performOp_of_busy`), and the
statements settled with them. -/

namespace Sys2Proof.Machine

/-! Accesses that have no effect (R61 tests 1 to 3, R62) -/

theorem State.hostWrite_of_ignored {s : State} {l : Loc} {v : BitVec l.width}
    (h : l.outside = true ∨ l.access = .ro ∨ s.status.busy = true) : s.hostWrite l v = s := by
  rcases s.hostWrite_cases l v with ⟨-, hsame⟩ | ⟨hinside, hwritable, hidle, -⟩
  · exact hsame
  · simp [hinside, hwritable, hidle] at h

theorem State.hostRead_of_outside {l : Loc} (s : State) (h : l.outside = true) : s.hostRead l = 0 := by
  cases l with
  | reg r => cases h
  | unassigned n asked => rfl
  | ibuf i => exact if_neg (Nat.not_lt.mpr (of_decide_eq_true h))
  | obuf i => exact if_neg (Nat.not_lt.mpr (of_decide_eq_true h))

/-- Settles O40: the tests of R61 stand before the store. -/
theorem ignoredWritesAndOutsideReads : Obligations.IgnoredWritesAndOutsideReads :=
  fun s _ _ => ⟨State.hostWrite_of_ignored, s.hostRead_of_outside⟩

/-! What a read returns after a write (R61 test 5, R73) -/

/-- CMD and STATUS are left out: a CMD write shows in STATUS (R25), and STATUS takes no write. -/
theorem State.readReg_writeReg (s : State) {r : Reg} (v : BitVec r.width) (hcmd : r ≠ .cmd) (hstatus : r ≠ .status)
    (r' : Reg) : (s.writeReg r v).readReg r' = if h : r' = r then h ▸ v else s.readReg r' := by
  cases r with
  | cmd => exact absurd rfl hcmd
  | status => exact absurd rfl hstatus
  | _ => cases r' <;> rfl

theorem State.hostRead_writeReg_of_ne (s : State) {r : Reg} (v : BitVec r.width) (hcmd : r ≠ .cmd)
    (hstatus : r ≠ .status) {l : Loc} (hl : l ≠ .reg r) : (s.writeReg r v).hostRead l = s.hostRead l := by
  cases l with
  | reg r' =>
    have hne : r' ≠ r := fun h => hl (h ▸ rfl)
    exact (s.readReg_writeReg v hcmd hstatus r').trans (dif_neg hne)
  | unassigned n asked => rfl
  | ibuf i => simp only [State.hostRead, State.writeReg_ibuf]
  | obuf i => simp only [State.hostRead, State.writeReg_obuf]

theorem State.hostRead_writeIbuf_same (s : State) {i : Nat} (b : Byte) (hi : i < Config.ibufCap) :
    ({ s with ibuf := s.ibuf.write i b } : State).hostRead (.ibuf i) = b :=
  (if_pos hi).trans ((s.ibuf.read_write i b i).trans (if_pos rfl))

theorem State.hostRead_writeIbuf_of_ne (s : State) {i : Nat} (b : Byte) {l : Loc} (hl : l ≠ .ibuf i) :
    ({ s with ibuf := s.ibuf.write i b } : State).hostRead l = s.hostRead l := by
  cases l with
  | reg r => rfl
  | unassigned n asked => rfl
  | ibuf j =>
    have hne : j ≠ i := fun h => hl (h ▸ rfl)
    simp only [State.hostRead, Memory.read_write, if_neg hne]
  | obuf j => rfl

/-- Settles O44: the location is a register with storage or a byte inside IBUF, and the write stores there only. -/
theorem writeIsReadBackAndNothingElseMoves : Obligations.WriteIsReadBackAndNothingElseMoves := by
  intro s l v hinside hrw hidle
  rw [State.hostWrite_of_idle hinside (by simp [hrw]) hidle]
  cases l with
  | reg r =>
    have hcmd : r ≠ .cmd := by
      rintro rfl
      cases hrw
    have hstatus : r ≠ .status := by
      rintro rfl
      cases hrw
    exact ⟨(s.readReg_writeReg v hcmd hstatus r).trans (dif_pos rfl),
      fun l' => s.hostRead_writeReg_of_ne v hcmd hstatus⟩
  | unassigned n asked => cases hrw
  | ibuf i =>
    have hi : i < Config.ibufCap := Nat.lt_of_not_le (of_decide_eq_false hinside)
    exact ⟨s.hostRead_writeIbuf_same v hi, fun l' => s.hostRead_writeIbuf_of_ne v⟩
  | obuf i => cases hrw

/-! Host moves that leave the block as it is (R63, R70, R210) -/

theorem SameBlock.trans {s t u : State} (hst : SameBlock s t) (htu : SameBlock t u) : SameBlock s u := by
  rw [SameBlock, hst] at htu
  exact htu

theorem State.sameBlock_takeTurn (s : State) : SameBlock s s.takeTurn := rfl

theorem State.sameBlock_withScript (s : State) (rest : List HostOp) : SameBlock s { s with script := rest } := rfl

theorem State.sameBlock_afterTurn (s : State) (rest : List HostOp) : SameBlock s (s.afterTurn rest) := rfl

theorem SameBlock.status {s t : State} (h : SameBlock s t) : t.status = s.status := by rw [h]

/-- The host sees the block only: no location shows the model's own fields. -/
theorem SameBlock.hostRead {s t : State} (h : SameBlock s t) (l : Loc) : t.hostRead l = s.hostRead l := by
  rw [h]
  cases l <;> rfl

/-- Settles O46: taking the turn and the operation off their lists leaves every location's value. -/
theorem readHasNoSideEffect : Obligations.ReadHasNoSideEffect := by
  intro s l rest hnext
  have hread : (s.afterTurn rest).hostRead l = s.hostRead l := (s.sameBlock_afterTurn rest).hostRead l
  rw [hostTurnPerformsNextOperation.left s _ rest hnext, ← hread]
  rfl

/-- While a command is under way no operation but `Reset` touches the block or the order of turns; in the script at most
the operation itself stays (`WAIT`, R103). -/
theorem State.performOp_of_busy {s : State} {op : HostOp} (hb : s.status.busy = true) (hop : op ≠ .move .reset) :
    SameBlock s (s.performOp op) ∧ (s.performOp op).turns = s.turns ∧
      (s.performOp op).script ⊆ op :: s.script := by
  have hkept : s.script ⊆ op :: s.script := List.subset_cons_self op s.script
  cases op with
  | move m =>
    cases m with
    | write l v =>
      have hsame : s.performOp (.move (.write l v)) = s := State.hostWrite_of_busy hb
      rw [hsame]
      exact ⟨rfl, rfl, hkept⟩
    | read l => exact ⟨rfl, rfl, hkept⟩
    | reset => exact absurd rfl hop
  | poll =>
    refine ⟨s.pollStatus_sameBlock, ?_⟩
    simp only [State.performOp, State.pollStatus]
    split
    · exact ⟨rfl, List.Subset.refl _⟩
    · exact ⟨rfl, hkept⟩
  | writeBack dst =>
    have hsame : s.performOp (.writeBack dst) = s := by
      simp only [State.performOp, State.writeBack]
      split
      · rfl
      · exact State.hostWrite_of_busy hb
    rw [hsame]
    exact ⟨rfl, rfl, hkept⟩

/-- Settles O43: the turn taken, the move leaves the block, so every location reads as before. -/
theorem busyWindowIgnoresHostWrites : Obligations.BusyWindowIgnoresHostWrites := by
  intro s m rest hb hnext hm
  have hbusy : (s.afterTurn rest).status.busy = true := hb
  have hop : HostOp.move m ≠ .move .reset := fun h => hm (HostOp.move.inj h)
  obtain ⟨hperform, -⟩ := State.performOp_of_busy hbusy hop
  have hblock : SameBlock s ((s.afterTurn rest).performOp (.move m)) :=
    (s.sameBlock_afterTurn rest).trans hperform
  exact ⟨_, hostTurnPerformsNextOperation.left s _ rest hnext, hblock, hblock.hostRead⟩

theorem State.hostMove_of_busy {s : State} (hb : s.status.busy = true) (hreset : HostOp.move .reset ∉ s.script) :
    SameBlock s s.hostMove ∧ s.hostMove.turns = s.turns ∧ s.hostMove.script ⊆ s.script := by
  cases hscript : s.script with
  | nil =>
    rw [State.hostMove_nil hscript, hscript]
    exact ⟨rfl, rfl, List.Subset.refl _⟩
  | cons op rest =>
    have hop : op ≠ .move .reset := by
      rintro rfl
      exact hreset (hscript ▸ List.mem_cons_self)
    have hbusy : ({ s with script := rest } : State).status.busy = true := hb
    obtain ⟨hblock, hturns, hsub⟩ := State.performOp_of_busy hbusy hop
    rw [State.hostMove_cons hscript]
    exact ⟨(s.sameBlock_withScript rest).trans hblock, hturns, hsub⟩

/-- A run of one step more goes on from where the first step leads. -/
theorem run_succ_of_step {s t : State} (n : Nat) (h : step s = .next t) : core.run (n + 1) s = core.run n t := by
  have hcore : core.step s = .next t := h
  simp only [Host.Core.run, hcore]

/-- Settles O57, by induction on the host's turns: each leaves the block, the rest of the turns, and no `Reset` in the
script. -/
theorem hostCannotDisturbAStartedCommand : Obligations.HostCannotDisturbAStartedCommand := by
  intro n
  induction n with
  | zero =>
    intro s ts hb hturns hreset
    exact ⟨s, rfl, rfl, by simp [State.nextAgent, hturns], hturns⟩
  | succ n ih =>
    intro s ts hb hturns hreset
    have hagent : s.nextAgent = .host := by simp [State.nextAgent, hturns, List.replicate_succ]
    have hturnBusy : s.takeTurn.status.busy = true := hb
    obtain ⟨hmove, hmoveTurns, hsub⟩ := State.hostMove_of_busy hturnBusy hreset
    have hblock : SameBlock s s.takeTurn.hostMove := s.sameBlock_takeTurn.trans hmove
    have hbusy : s.takeTurn.hostMove.status.busy = true := by rw [hblock.status, hb]
    have hrest : s.takeTurn.hostMove.turns = List.replicate n .host ++ .core :: ts := by
      rw [hmoveTurns, State.takeTurn_turns, hturns]
      rfl
    obtain ⟨t, hrun, hsame, hnext⟩ := ih _ ts hbusy hrest fun h => hreset (hsub h)
    exact ⟨t, (run_succ_of_step n (step_of_host hagent)).trans hrun, hblock.trans hsame, hnext⟩

end Sys2Proof.Machine

/-! PROOFS of the family 30_encoding.md. The two halves of the round trip of bytes and instructions, what the packet
functions answer in the spec's closed forms (`cresp_eq`, `hb_modeNone`, `extract_eq_ite`), what an instruction computes from
its operands alone (`results_agree`), and the lines of a host script run move by move. -/

namespace Sys2Proof.Machine

/-! Decoding and encoding (R90, R91, R96, R97, R98) -/

theorem decodeFlag_eq_some_iff {bs : List Byte} {flag : HbFlag} :
    decodeFlag bs = some flag ↔ bs = encodeFlag flag := by
  constructor
  · intro h
    unfold decodeFlag at h
    split at h
    · cases h
      assumption
    · split at h
      · cases h
        assumption
      · cases h
  · rintro rfl
    cases flag <;> rfl

theorem decodeCreq_bytes (p : CreqPacket) : decodeCreq p.bytes = .ok (.pktCreq p) := rfl

theorem decodeCresp_bytes (p : CrespPacket) : decodeCresp p.bytes = .ok (.pktCresp p) := by
  have hlen : ¬ p.bytes.length < 16 := Nat.lt_irrefl 16
  have hseed : slice p.bytes 8 4 = le32 p.seed := rfl
  have hip : slice p.bytes 12 4 = be32 p.srcIp := rfl
  simp only [decodeCresp, hlen, if_false, hseed, hip, fromLe32_le32, fromBe32_be32]
  rfl

theorem decodeHb_bytes (p : HbPacket) : decodeHb p.bytes = .ok (.pktHb p) := by
  have hlen : p.bytes.length = 96 := Laws.EncodingSize.pktHb p
  have hfixed : slice p.bytes 2 2 = [0x60, 0x00] := rfl
  obtain ⟨a, b, c, d, hflagBytes⟩ : ∃ a b c d, encodeFlag p.flag = [a, b, c, d] := by
    cases p.flag <;> exact ⟨_, _, _, _, rfl⟩
  obtain ⟨hflag, hseed, hpad⟩ : slice p.bytes 16 4 = encodeFlag p.flag ∧ slice p.bytes 20 4 = le32 p.seed ∧
      p.bytes.drop 32 = zeros 64 := by
    rw [HbPacket.bytes, hflagBytes]
    exact ⟨rfl, rfl, rfl⟩
  have hip : slice p.bytes 12 4 = be32 p.srcIp := rfl
  have hdecode : decodeFlag (encodeFlag p.flag) = some p.flag := decodeFlag_eq_some_iff.mpr rfl
  simp only [decodeHb, hlen, hfixed, hpad, hflag, hdecode, hseed, hip, fromLe32_le32, fromBe32_be32, ne_eq,
    not_true_eq_false, or_self, if_false]
  rw [HbPacket.bytes, hflagBytes]
  rfl

/-- No operand bit is dropped by an encoding. -/
theorem decode_encode (i : Instr) : decode i.format (encode i) = .ok i := by
  cases i with
  | pktCreq p => exact decodeCreq_bytes p
  | pktCresp p => exact decodeCresp_bytes p
  | pktHb p => exact decodeHb_bytes p
  | _ => rfl

theorem length_encode (i : Instr) : (encode i).length = i.format.size := by
  cases i with
  | pktHb p => exact Laws.EncodingSize.pktHb p
  | _ => rfl

/-- Bytes packed into a number come out again. -/
theorem wordBytes_wordOf (bs : List Byte) : wordBytes bs.length (wordOf bs) = bs := by
  induction bs with
  | nil => rfl
  | cons b bs ih =>
    have hlow : BitVec.ofNat 8 (b.toNat + 256 * wordOf bs) = b := by
      apply BitVec.eq_of_toNat_eq
      rw [BitVec.toNat_ofNat]
      omega
    have hhigh : (b.toNat + 256 * wordOf bs) / 256 = wordOf bs := by omega
    simp only [List.length_cons, wordOf, wordBytes, hlow, hhigh, ih]

theorem Format.ofBits_size (f : Format) : Format.ofBits (8 * f.size) = some f := by
  cases f <;> rfl

/-- Settles O5: the table's word of an encoding has its format's number of bits and its bytes. -/
theorem decodeOfEncodeIsTheInstruction : Obligations.DecodeOfEncodeIsTheInstruction := by
  intro i
  have hbytes : wordBytes i.format.size (wordOf (encode i)) = encode i := by
    rw [← length_encode, wordBytes_wordOf]
  refine ⟨decode_encode i, ?_⟩
  simp only [decodeTableWord, length_encode, Format.ofBits_size, hbytes, decode_encode]

/-- Settles O4: each word written out is the encoding of its instruction. -/
theorem writtenOutWordsDecode : Obligations.WrittenOutWordsDecode :=
  ⟨decode_encode .modesel, decode_encode .hash, decode_encode .crc32, decode_encode .encCreq, decode_encode .decCresp,
    decode_encode .encHb, decode_encode (.pktCreq { opc := 0x07, seq := 0x2A }), decode_encode (.pktCresp
      { opc := 0x07
        reserved := { b0 := 0x01, b1 := 0x10, b2 := 0x00, b3 := 0x06, b4 := 0x00, b5 := 0x00, b6 := 0x00 }
        seed := 0x12345679, srcIp := 0xC0A80164 })⟩

/-! Byte sequences cut into fields -/

theorem slice_append_slice (bs : List Byte) (a m n : Nat) :
    slice bs a m ++ slice bs (a + m) n = slice bs a (m + n) := by
  simp only [slice, List.take_add, List.drop_drop]

theorem slice_eq_map {bs : List Byte} {a n : Nat} (h : a + n ≤ bs.length) :
    slice bs a n = (List.range n).map fun k => byteAt bs (a + k) := by
  apply List.ext_getElem
  · simp only [slice, List.length_take, List.length_drop, List.length_map, List.length_range]
    omega
  · intro k hk _
    have hin : a + k < bs.length := by
      simp only [slice, List.length_take, List.length_drop] at hk
      omega
    simp [slice, byteAt, List.getD, hin]

theorem le32_fromLe32_slice {bs : List Byte} {a : Nat} (h : a + 4 ≤ bs.length) :
    le32 (fromLe32 (slice bs a 4)) = slice bs a 4 := by
  rw [slice_eq_map h]
  exact le32_fromLe32 _ _ _ _

theorem be32_fromBe32_slice {bs : List Byte} {a : Nat} (h : a + 4 ≤ bs.length) :
    be32 (fromBe32 (slice bs a 4)) = slice bs a 4 := by
  rw [slice_eq_map h]
  exact congrArg List.reverse (le32_fromLe32 (byteAt bs (a + 3)) (byteAt bs (a + 2)) (byteAt bs (a + 1)) (byteAt bs a))

/-! What decoded bytes are (the other half of the round trip) -/

theorem encode_of_decodeCommand {code : Byte} {i : Instr} (h : decodeCommand code = some i) :
    i.format = .cmd8 ∧ encode i = [code] := by
  have hcode : ∀ n, code.toNat = n → code = BitVec.ofNat 8 n := by
    rintro n rfl
    exact BitVec.eq_of_toNat_eq (by simp)
  unfold decodeCommand at h
  split at h
  case h_7 => cases h
  all_goals
    cases h
    rename_i hn
    rw [hcode _ hn]
    exact ⟨rfl, rfl⟩

theorem encode_of_decodeCmd8 {bs : List Byte} {i : Instr} (h : decodeCmd8 bs = .ok i) :
    i.format = .cmd8 ∧ encode i = bs.take 1 := by
  unfold decodeCmd8 at h
  split at h
  · split at h
    · rename_i hcommand
      cases h
      exact encode_of_decodeCommand hcommand
    · cases h
  · cases h

theorem encode_of_decodeCreq {bs : List Byte} {i : Instr} (h : decodeCreq bs = .ok i) :
    i.format = .wireCreq ∧ encode i = bs.take 8 := by
  unfold decodeCreq at h
  split at h
  · cases h
  · split at h
    · cases h
    · rename_i hlen hfixed
      cases h
      rw [ne_eq, Decidable.not_not] at hlen hfixed
      refine ⟨rfl, ?_⟩
      have hhead : [byteAt bs 0, byteAt bs 1] = bs.take 2 := (slice_eq_map (a := 0) (n := 2) (by omega)).symm
      calc encode (.pktCreq ⟨byteAt bs 0, byteAt bs 1⟩)
          = [byteAt bs 0, byteAt bs 1] ++ [0x08, 0x00, 0x01, 0x00, 0x00, 0x00] := rfl
        _ = bs.take 2 ++ bs.drop 2 := by rw [hhead, hfixed]
        _ = bs.take 8 := by rw [List.take_append_drop, ← hlen, List.take_length]

theorem encode_of_decodeCresp {bs : List Byte} {i : Instr} (h : decodeCresp bs = .ok i) :
    i.format = .wireCresp ∧ encode i = bs.take 16 := by
  unfold decodeCresp at h
  dsimp only at h
  split at h
  · cases h
  · rename_i hlen
    cases h
    refine ⟨rfl, ?_⟩
    have hhead : (List.range 8).map (fun k => byteAt bs (0 + k)) = slice bs 0 8 := (slice_eq_map (by omega)).symm
    calc encode (.pktCresp _)
        = (List.range 8).map (fun k => byteAt bs (0 + k)) ++ le32 (fromLe32 (slice bs 8 4)) ++
            be32 (fromBe32 (slice bs 12 4)) := rfl
      _ = slice bs 0 8 ++ slice bs (0 + 8) 4 ++ slice bs (0 + 12) 4 := by
          rw [hhead, le32_fromLe32_slice (by omega), be32_fromBe32_slice (by omega)]
      _ = bs.take 16 := by rw [slice_append_slice, slice_append_slice]; rfl

/-- The layout of R98, cut where a field or a fixed part begins. -/
theorem hbPacket_bytes_eq (p : HbPacket) : p.bytes =
    [p.opc, p.seq] ++ [0x60, 0x00] ++ ([p.typeId, p.uidLen] ++ p.mac.toList) ++ be32 p.srcIp ++ encodeFlag p.flag ++
      le32 p.seed ++ p.checksum.toList ++ zeros 64 := rfl

/-- The fields of a decoded Heartbeat Request and the parts that R98 fixes, each where it stands in the bytes. -/
theorem decodeHb_eq_ok {bs : List Byte} {i : Instr} (h : decodeHb bs = .ok i) :
    ∃ p, i = .pktHb p ∧ bs.length = 96 ∧ [p.opc, p.seq] = slice bs 0 2 ∧ [0x60, 0x00] = slice bs 2 2 ∧
      [p.typeId, p.uidLen] ++ p.mac.toList = slice bs 4 8 ∧ p.srcIp = fromBe32 (slice bs 12 4) ∧
      encodeFlag p.flag = slice bs 16 4 ∧ p.seed = fromLe32 (slice bs 20 4) ∧ p.checksum.toList = slice bs 24 8 ∧
      zeros 64 = bs.drop 32 := by
  unfold decodeHb at h
  dsimp only at h
  split at h
  · cases h
  · split at h
    · cases h
    · split at h
      · cases h
      · rename_i hlen hfixed _ flag hflag
        cases h
        rw [ne_eq, Decidable.not_not] at hlen
        rw [not_or, ne_eq, ne_eq, Decidable.not_not, Decidable.not_not] at hfixed
        exact ⟨_, rfl, hlen, (slice_eq_map (a := 0) (n := 2) (by omega)).symm, hfixed.left.symm,
          (slice_eq_map (a := 4) (n := 8) (by omega)).symm, rfl, (decodeFlag_eq_some_iff.mp hflag).symm, rfl,
          (slice_eq_map (a := 24) (n := 8) (by omega)).symm, hfixed.right.symm⟩

theorem encode_of_decodeHb {bs : List Byte} {i : Instr} (h : decodeHb bs = .ok i) :
    i.format = .wireHb ∧ encode i = bs.take 96 := by
  obtain ⟨p, rfl, hlen, hopc, hsize, hids, hip, hflag, hseed, hsum, hpad⟩ := decodeHb_eq_ok h
  refine ⟨rfl, ?_⟩
  calc encode (.pktHb p)
      = slice bs 0 2 ++ slice bs (0 + 2) 2 ++ slice bs (0 + 4) 8 ++ slice bs (0 + 12) 4 ++ slice bs (0 + 16) 4 ++
          slice bs (0 + 20) 4 ++ slice bs (0 + 24) 8 ++ bs.drop 32 := by
        rw [encode, hbPacket_bytes_eq, hopc, hsize, hids, hip, hflag, hseed, hsum, hpad, be32_fromBe32_slice (by omega),
          le32_fromLe32_slice (by omega)]
    _ = bs.take 32 ++ bs.drop 32 := by simp only [slice_append_slice]; rfl
    _ = bs.take 96 := by rw [List.take_append_drop, ← hlen, List.take_length]

/-- Settles O6, format by format. -/
theorem encodeOfDecodeIsTheBytes : Obligations.EncodeOfDecodeIsTheBytes := by
  intro f bs i h
  cases f with
  | cmd8 => exact encode_of_decodeCmd8 h
  | wireCreq => exact encode_of_decodeCreq h
  | wireCresp => exact encode_of_decodeCresp h
  | wireHb => exact encode_of_decodeHb h


/-! The Challenge Request (R150) -/

theorem creq_eq (P : Params) (seq : Byte) : creq P seq = [P.opcCreq, seq, 0x08, 0x00, 0x01, 0x00, 0x00, 0x00] := rfl

/-- Settles O28: PKT_CREQ ends as the emission of the packet's sequence number. -/
theorem pktCreqEmitsItsPacket : Obligations.PktCreqEmitsItsPacket := by
  intro p s
  have hemit := emitsOnly_of_complete s (length_creq Config.params p.seq)
  rwa [creq_eq] at hemit

/-! The Challenge Response (R163, R165) -/

/-- The outcomes of `cresp` in the order its tests are made. -/
theorem cresp_eq (P : Params) (S : List Byte) : cresp P S =
    if S.length < 1 then .error .readOpcode
    else if byteAt S 0 ≠ P.opcCresp then .error .opcodeMismatch
    else if S.length < 8 then .error .readReserved
    else if S.length < 12 then .error .readSeed
    else if S.length < 16 then .error .readSrcip
    else .ok (fromLe32 (slice S 8 4), fromBe32 (slice S 12 4)) := by
  have hcutReserved : S.length - 1 < 7 ↔ S.length < 8 := by omega
  have hcutSeed : S.length - 8 < 4 ↔ S.length < 12 := by omega
  have hcutIp : S.length - 12 < 4 ↔ S.length < 16 := by omega
  unfold cresp validatePacket
  by_cases hempty : S.length < 1
  · simp only [Nat.sub_zero, if_pos hempty]
    rfl
  by_cases hopc : byteAt S 0 ≠ P.opcCresp
  · simp only [Nat.sub_zero, if_neg hempty, if_pos hopc]
    rfl
  simp only [Nat.sub_zero, if_neg hempty, if_neg hopc, bind, Except.bind, readBytes, Nat.zero_add, Nat.reduceAdd,
    hcutReserved]
  by_cases hreserved : S.length < 8
  · simp only [if_pos hreserved]
  simp only [if_neg hreserved, Nat.reduceAdd, hcutSeed]
  by_cases hseed : S.length < 12
  · simp only [if_pos hseed]
  simp only [if_neg hseed, Nat.reduceAdd, hcutIp]
  by_cases hip : S.length < 16
  · simp only [if_pos hip]
  simp only [if_neg hip]
  rfl

/-- A well-formed response that a packet encodes gives the packet's fields back. -/
theorem cresp_bytes {P : Params} {p : CrespPacket} (h : p.opc = P.opcCresp) :
    cresp P p.bytes = .ok (p.seed, p.srcIp) := by
  have hlen : p.bytes.length = 16 := rfl
  have hopc : byteAt p.bytes 0 = P.opcCresp := h
  have hseed : slice p.bytes 8 4 = le32 p.seed := rfl
  have hip : slice p.bytes 12 4 = be32 p.srcIp := rfl
  rw [cresp_eq, hlen, hopc, hseed, hip, fromLe32_le32, fromBe32_be32]
  simp

/-- Settles O29: the encoding is sixteen bytes with the right opcode. -/
theorem pktCrespDeliversItsFields : Obligations.PktCrespDeliversItsFields := by
  intro p s h
  have hcresp : cresp Config.params p.bytes = .ok (p.seed, p.srcIp) := cresp_bytes h
  simp only [exec, execPktCresp, hcresp]
  rfl

/-! Words and their octets, the model's form and the closed form -/

theorem extractLsb'_eq_octet (v : U32) (k : Nat) : v.extractLsb' (8 * k) 8 = octet v k := by
  apply BitVec.eq_of_toNat_eq
  rw [octet, BitVec.extractLsb'_toNat, BitVec.toNat_ofNat, Nat.shiftRight_eq_div_pow, pow_mul]
  norm_num

theorem le32_eq_octets (v : U32) : le32 v = [octet v 0, octet v 1, octet v 2, octet v 3] := by
  simp only [← extractLsb'_eq_octet]
  rfl

theorem be32_eq_octets (v : U32) : be32 v = [octet v 3, octet v 2, octet v 1, octet v 0] := by
  simp only [← extractLsb'_eq_octet]
  rfl

theorem fromLe32_eq_littleWord (b0 b1 b2 b3 : Byte) : fromLe32 [b0, b1, b2, b3] = littleWord b0 b1 b2 b3 := by
  apply BitVec.eq_of_toNat_eq
  rw [fromLe32_toNat, littleWord, BitVec.toNat_ofNat]
  omega

theorem le32_flagConst (f : HbFlag) : le32 (flagConst f) = encodeFlag f := by
  cases f <;> rfl

/-! The digest bytes a mode retains (R122, R125) -/

theorem length_retain (m : Mode) : (retain m).length = 8 := by
  cases m <;> rfl

/-- Eight bytes are collected exactly when no offset lies past the end of the digest. -/
theorem length_collect_eq_iff (m : Mode) (d : List Byte) :
    (collect m d).length = 8 ↔ ∀ o ∈ retain m, o < d.length := by
  rw [collect, List.length_filterMap_eq_countP, ← length_retain m, List.countP_eq_length]
  simp

theorem collect_eq_map {m : Mode} {d : List Byte} (h : ∀ o ∈ retain m, o < d.length) :
    collect m d = (retain m).map (byteAt d) := by
  rw [collect, ← List.filterMap_eq_map]
  apply List.filterMap_congr
  intro o ho
  simp [byteAt, List.getD, h o ho]

/-- `n` is one more than the greatest offset of the mode's row. -/
theorem extract_eq_ite {m : Mode} {d : List Byte} {n : Nat} (hn : (∀ o ∈ retain m, o < d.length) ↔ n ≤ d.length) :
    extract m d = if n ≤ d.length then .ok ((retain m).map (byteAt d)) else .error .retainCount := by
  have hall := (length_collect_eq_iff m d).trans hn
  by_cases h : n ≤ d.length
  · rw [extract, if_pos (hall.mpr h), if_pos h, collect_eq_map (hn.mpr h)]
  · rw [extract, if_neg (mt hall.mp h), if_neg h]

theorem extract_md5 (d : List Byte) :
    extract .md5 d = if 15 ≤ d.length then .ok (keptMd5 d) else .error .retainCount :=
  extract_eq_ite (by
    simp only [retain, List.forall_mem_cons, List.not_mem_nil, false_implies, implies_true, and_true]
    omega)

theorem extract_md4 (d : List Byte) :
    extract .md4 d = if 13 ≤ d.length then .ok (keptMd4 d) else .error .retainCount :=
  extract_eq_ite (by
    simp only [retain, List.forall_mem_cons, List.not_mem_nil, false_implies, implies_true, and_true]
    omega)

/-! The Heartbeat Request of a request record (R178 to R184) -/

/-- Bytes 0 to 23 of the heartbeat of `q`, in the closed form of R98. -/
def Request.head (P : Params) (q : Request) : List Byte :=
  heartbeatHead P.opcHb q.seq q.typeId q.uidLen q.mac q.ip q.flag q.seed

theorem Request.head_eq (P : Params) (q : Request) : hbHeader P q ++ hbContent q = q.head P := by
  simp only [hbContent, le32_eq_octets, be32_eq_octets, Request.head, heartbeatHead]
  cases q.flag <;> rfl

theorem hb_eq_map (P : Params) (q : Request) :
    hb P q = (hbFoot2 P q).map fun f2 => q.head P ++ f2 ++ List.replicate 64 0x00 := by
  simp only [hb, hbFooter, Request.head_eq]
  cases hbFoot2 P q with
  | ok f2 => exact congrArg Except.ok (List.append_assoc _ _ _).symm
  | error e => rfl

theorem hbMode_of_rem {q : Request} {r : Nat} (h : q.seed.toNat % 3 = r) : hbMode q = fromMode (BitVec.ofNat 8 r) := by
  rw [hbMode, h]

/-- In the digest modes the checksum field is the hash of the seed (R181, R182). -/
theorem hbFoot2_eq_hash {P : Params} {q : Request} {m : Mode} (hm : hbMode q = .ok m) (hne : m ≠ .none) :
    hbFoot2 P q = Machine.hash P m (le32 q.seed) := by
  simp only [hbFoot2, hbFoot1, hm, bind, Except.bind, if_neg hne, pure, Except.pure]
  cases Machine.hash P m (le32 q.seed) <;> rfl

theorem xorWords_heartbeat (P : Params) (q : Request) :
    xorWords (hbHeader P q ++ hbContent q ++ synth) 8 0 =
      heartbeatFold P.opcHb q.seq q.typeId q.uidLen q.mac q.ip q.flag q.seed := by
  have hwords : xorWords (hbHeader P q ++ hbContent q ++ synth) 8 0 =
      0 ^^^ fromLe32 [P.opcHb, q.seq, 0x60, 0x00] ^^^ fromLe32 [q.typeId, q.uidLen, q.mac.b0, q.mac.b1] ^^^
        fromLe32 [q.mac.b2, q.mac.b3, q.mac.b4, q.mac.b5] ^^^ fromLe32 (be32 q.ip) ^^^
        fromLe32 (le32 (flagConst q.flag)) ^^^ fromLe32 (le32 q.seed) ^^^ fromLe32 (le32 Config.kNoneA) ^^^
        fromLe32 (le32 Config.kNoneB) := rfl
  rw [hwords, be32_eq_octets]
  simp only [fromLe32_le32, fromLe32_eq_littleWord, BitVec.ofNat_eq_ofNat, BitVec.zero_xor, heartbeatFold]
  cases q.flag <;> rfl

theorem heartbeatFallback_eq (c : U32) : le32 (mul32 c Config.kMul) ++ zeros 4 = heartbeatFallback c := by
  have hprod : mul32 c Config.kMul = BitVec.ofNat 32 (c.toNat * 19680126) := by
    apply BitVec.eq_of_toNat_eq
    rw [mul32, BitVec.toNat_mul, BitVec.toNat_ofNat, Config.kMul]
    rfl
  simp only [heartbeatFallback, hprod, le32_eq_octets]
  rfl

/-- Mode None: no digest is read and nothing can fail (R184, R185). -/
theorem hb_modeNone {P : Params} {q : Request} (h : q.seed.toNat % 3 = 0) : hb P q =
    .ok (q.head P ++
      heartbeatFallback (heartbeatFold P.opcHb q.seq q.typeId q.uidLen q.mac q.ip q.flag q.seed) ++
      List.replicate 64 0x00) := by
  have hmode : hbMode q = .ok .none := hbMode_of_rem h
  rw [hb_eq_map, hbFoot2_none hmode, xorWords_heartbeat, heartbeatFallback_eq]
  rfl

/-! How emitting a heartbeat ends (ENC_HB and PKT_HB, R177) -/

/-- The end of a `Complete` move that emits the heartbeat of `q`. -/
def emitHb (s : State) (q : Request) : Host.Outcome State Fault Refusal :=
  .next (s.complete (do
    let pkt ← hb Config.params q
    return s.emit 96 pkt))

theorem exec_encHb (s : State) : exec .encHb s = emitHb s s.request := rfl

theorem exec_pktHb (p : HbPacket) (s : State) : exec (.pktHb p) s = emitHb s p.request := rfl

theorem emitHb_of_ok {s : State} {q : Request} {pkt : List Byte} (h : hb Config.params q = .ok pkt) :
    EmitsOnly (emitHb s q) s pkt := by
  have hend : emitHb s q = .next (s.complete (.ok (s.emit 96 pkt))) := by
    simp only [emitHb, h]
    rfl
  rw [hend]
  exact emitsOnly_of_complete s (length_hb h)

theorem emitHb_of_error {s : State} {q : Request} {e : ErrCode} (h : hb Config.params q = .error e) :
    emitHb s q = .next (s.ended e.code) := by
  simp only [emitHb, h]
  rfl

/-- Settles O31: the request of the packet has the packet's seed, so its mode is None. -/
theorem pktHbModeNoneEmitsItsPacket : Obligations.PktHbModeNoneEmitsItsPacket := by
  intro p s h
  rw [exec_pktHb]
  exact emitHb_of_ok (hb_modeNone (q := p.request) h)

/-- The 96 bytes, or E_RETAIN_COUNT, as the hash of the seed ends. -/
theorem hb_of_hash {P : Params} {q : Request} {m : Mode} (hm : hbMode q = .ok m) (hne : m ≠ .none) :
    hb P q = (Machine.hash P m (le32 q.seed)).map fun kept => q.head P ++ kept ++ List.replicate 64 0x00 := by
  rw [hb_eq_map, hbFoot2_eq_hash hm hne]

theorem emitHb_of_hash {s : State} {q : Request} {m : Mode} {kept : List Byte} {c : Prop} [Decidable c]
    (hm : hbMode q = .ok m) (hne : m ≠ .none)
    (hhash : Machine.hash Config.params m (le32 q.seed) = if c then .ok kept else .error .retainCount) :
    if c then EmitsOnly (emitHb s q) s (q.head Config.params ++ kept ++ List.replicate 64 0x00)
    else emitHb s q = .next (s.ended 0x03) := by
  have hhb := hb_of_hash (P := Config.params) hm hne
  rw [hhash] at hhb
  split
  · rw [if_pos ‹c›] at hhb
    exact emitHb_of_ok hhb
  · rw [if_neg ‹¬ c›] at hhb
    exact emitHb_of_error hhb

theorem emitHb_digestEnds (s : State) {q : Request} (h : q.seed.toNat % 3 ≠ 0) :
    HeartbeatDigestEnds (emitHb s q) s (q.head Config.params) q.seed := by
  have hseed : seedBytes q.seed = le32 q.seed := (le32_eq_octets q.seed).symm
  simp only [HeartbeatDigestEnds, hseed]
  split
  · have hmode : hbMode q = .ok .md5 := hbMode_of_rem ‹_›
    exact emitHb_of_hash hmode (by decide) (extract_md5 _)
  · have hmode : hbMode q = .ok .md4 := hbMode_of_rem (r := 2) (by omega)
    exact emitHb_of_hash hmode (by decide) (extract_md4 _)

/-- Settles O32: as ENC_HB ends on the same request. -/
theorem pktHbDigestModesEmitItsPacket : Obligations.PktHbDigestModesEmitItsPacket := by
  intro p s h
  rw [exec_pktHb]
  exact emitHb_digestEnds s (q := p.request) h

/-! Well-formed packets are emitted as encoded -/

theorem hb_of_wellFormed {P : Params} {p : HbPacket} (h : p.WellFormed P) : hb P p.request = .ok p.bytes := by
  obtain ⟨hopc, hfoot⟩ := h
  have hhead : p.request.head P = hbHeader P p.request ++ hbContent p.request := (Request.head_eq P p.request).symm
  rw [hb_eq_map, hfoot, hhead]
  simp only [hbContent, le32_flagConst, HbPacket.bytes, hopc]
  rfl

/-- Settles O33: what the encoder supplies is what the packet holds. -/
theorem wellFormedPacketIsEmittedAsEncoded : Obligations.WellFormedPacketIsEmittedAsEncoded := by
  intro i s hformat hwf
  cases i with
  | pktCreq p =>
    have hopc : p.opc = Config.opcCreq := hwf
    have hbytes : encode (.pktCreq p) = [Config.opcCreq, p.seq, 0x08, 0x00, 0x01, 0x00, 0x00, 0x00] := by
      rw [encode, CreqPacket.bytes, hopc]
    rw [hbytes]
    exact pktCreqEmitsItsPacket p s
  | pktHb p =>
    rw [exec_pktHb]
    exact emitHb_of_ok (hb_of_wellFormed hwf)
  | _ => simp [Instr.format] at hformat


/-! What an instruction leaves unchanged (R92, R210, R211) -/

theorem outputs_frame {s u : State} (h : OutputsWritten s u) :
    u = { s with
      rMode := u.rMode, rCrc := u.rCrc, rSeed := u.rSeed, rSrcip := u.rSrcip, obuf := u.obuf, olen := u.olen } := by
  cases h <;> rfl

/-- The output registers, OBUF, OLEN and STATUS are all an instruction can change, and in STATUS not LASTOP. -/
theorem exec_frame {i : Instr} {s t : State} (h : exec i s = .next t) :
    t = ({ s with
      rMode := t.rMode, rCrc := t.rCrc, rSeed := t.rSeed, rSrcip := t.rSrcip, obuf := t.obuf,
      olen := t.olen } : State).ended t.status.err := by
  rcases exec_cases i s with ⟨u, hu, hexec⟩ | ⟨e, hexec⟩
  · cases hexec.symm.trans h
    rw [outputs_frame hu]
    rfl
  · cases hexec.symm.trans h
    rfl

/-- Settles O36: no field it names is among those of `exec_frame`. -/
theorem operandsAreNeverWritten : Obligations.OperandsAreNeverWritten := by
  intro i s t h
  rw [exec_frame h]
  exact ⟨rfl, rfl, rfl, rfl, rfl, rfl, rfl, rfl, rfl, rfl, rfl, rfl, rfl, rfl, rfl, rfl⟩

/-! What an instruction computes before it writes (R92, R7) -/

theorem ErrCode.code_ne_zero (e : ErrCode) : e.code ≠ 0x00 := by cases e <;> decide

/-- The digest bytes HASH answers, or its error (R129). -/
def hashResult (s : State) : Except ErrCode (List Byte) := do
  s.checkIlen
  let m ← fromMode s.mode
  Machine.hash Config.params m s.input

/-- The fold CRC32 answers, or its error (R142). -/
def crc32Result (s : State) : Except ErrCode U32 := do
  s.checkIlen
  crc32 s.input s.init

/-- The seed and the address DEC_CRESP answers, or its error (R164). -/
def decCrespResult (s : State) : Except ErrCode (U32 × U32) := do
  s.checkIlen
  cresp Config.params s.input

theorem exec_modesel_eq (s : State) :
    exec .modesel s = .next (s.complete ((fromMode s.mode).map fun m => { s with rMode := m.number })) := by
  simp only [exec, execModesel]
  cases fromMode s.mode <;> rfl

theorem exec_hash_eq (s : State) : exec .hash s = .next (s.complete ((hashResult s).map (s.emit 8))) := by
  simp only [exec, execHash, hashResult]
  cases s.checkIlen with
  | error e => rfl
  | ok _ =>
    cases fromMode s.mode with
    | error e => rfl
    | ok m => simp only [bind, Except.bind]; cases Machine.hash Config.params m s.input <;> rfl

theorem exec_crc32_eq (s : State) :
    exec .crc32 s = .next (s.complete ((crc32Result s).map fun c => { s with rCrc := c })) := by
  simp only [exec, execCrc32, crc32Result]
  cases s.checkIlen with
  | error e => rfl
  | ok _ => simp only [bind, Except.bind]; cases crc32 s.input s.init <;> rfl

theorem exec_encCreq_eq (s : State) :
    exec .encCreq s = .next (s.complete ((Except.ok (creq Config.params s.seq)).map (s.emit 8))) := rfl

theorem exec_pktCreq_eq (p : CreqPacket) (s : State) :
    exec (.pktCreq p) s = .next (s.complete ((Except.ok (creq Config.params p.seq)).map (s.emit 8))) := rfl

theorem exec_decCresp_eq (s : State) :
    exec .decCresp s = .next (s.complete ((decCrespResult s).map s.storeResponse)) := by
  simp only [exec, execDecCresp, decCrespResult]
  cases s.checkIlen with
  | error e => rfl
  | ok _ => simp only [bind, Except.bind]; cases cresp Config.params s.input <;> rfl

theorem exec_pktCresp_eq (p : CrespPacket) (s : State) :
    exec (.pktCresp p) s = .next (s.complete ((cresp Config.params p.bytes).map s.storeResponse)) := by
  simp only [exec, execPktCresp]
  cases cresp Config.params p.bytes <;> rfl

theorem emitHb_eq (s : State) (q : Request) :
    emitHb s q = .next (s.complete ((hb Config.params q).map (s.emit 96))) := by
  simp only [emitHb]
  cases hb Config.params q <;> rfl

/-- Two completions with the same computed value: the errors agree, and so do the outputs if what is written with the
value agrees. -/
theorem results_agree {α : Type} {x x' : Except ErrCode α} {put put' : α → State} {R : State → State → Prop} {i : Instr}
    {s s' t t' : State} (h : exec i s = .next t) (h' : exec i s' = .next t')
    (hx : exec i s = .next (s.complete (x.map put))) (hx' : exec i s' = .next (s'.complete (x'.map put')))
    (hsame : x = x') (hR : ∀ a, x = .ok a → R (put a).succeed (put' a).succeed) :
    t.status.err = t'.status.err ∧ (t.status.err = 0x00 → R t t') := by
  cases hx.symm.trans h
  cases hx'.symm.trans h'
  cases hsame
  cases x with
  | ok a => exact ⟨rfl, fun _ => hR a rfl⟩
  | error e => exact ⟨rfl, fun herr => absurd herr e.code_ne_zero⟩

/-! The computed values depend on the listed operands -/

theorem State.checkIlen_congr {s s' : State} (h : s.ilen = s'.ilen) : s.checkIlen = s'.checkIlen := by
  rw [State.checkIlen, State.checkIlen, h]

theorem State.take_input (s : State) (n : Nat) :
    s.input.take n = (List.range (min n s.ilen.toNat)).map fun i => s.ibuf.read i := by
  rw [State.input_eq, inputBytes, ← List.map_take, List.take_range]

theorem State.take_input_congr {s s' : State} {n : Nat} (hlen : s.ilen = s'.ilen)
    (hbytes : AgreeIbuf s s' (min s.ilen.toNat n)) : s.input.take n = s'.input.take n := by
  rw [State.take_input, State.take_input, ← hlen, Nat.min_comm]
  exact List.map_congr_left fun i hi => hbytes i (List.mem_range.mp hi)

theorem State.input_congr {s s' : State} (hlen : s.ilen = s'.ilen) (hbytes : AgreeIbuf s s' s.ilen.toNat) :
    s.input = s'.input := by
  have htake := State.take_input_congr (n := s.ilen.toNat) hlen (by rwa [Nat.min_self])
  rwa [List.take_of_length_le (Nat.le_of_eq s.length_input),
    List.take_of_length_le (by rw [s'.length_input, hlen])] at htake

theorem slice_take (bs : List Byte) {a n k : Nat} (h : a + n ≤ k) : slice (bs.take k) a n = slice bs a n := by
  rw [slice, slice, List.drop_take, List.take_take, Nat.min_eq_left (by omega)]

theorem byteAt_take (bs : List Byte) {i k : Nat} (h : i < k) : byteAt (bs.take k) i = byteAt bs i := by
  simp only [byteAt, List.getD, List.getElem?_take_of_lt h]

/-- A parse looks at sixteen bytes and the length. -/
theorem cresp_congr {P : Params} {S S' : List Byte} (hlen : S.length = S'.length) (htake : S.take 16 = S'.take 16) :
    cresp P S = cresp P S' := by
  have hslice : ∀ a n, a + n ≤ 16 → slice S a n = slice S' a n := fun a n h => by
    rw [← slice_take S h, htake, slice_take S' h]
  have hopc : byteAt S 0 = byteAt S' 0 := by
    rw [← byteAt_take S (k := 16) (by decide), htake, byteAt_take S' (by decide)]
  rw [cresp_eq, cresp_eq, hlen, hopc, hslice 8 4 (by decide), hslice 12 4 (by decide)]

theorem decCrespResult_congr {s s' : State} (hlen : s.ilen = s'.ilen)
    (hbytes : AgreeIbuf s s' (min s.ilen.toNat 16)) : decCrespResult s = decCrespResult s' := by
  have hlength : s.input.length = s'.input.length := by rw [s.length_input, s'.length_input, hlen]
  rw [decCrespResult, decCrespResult, State.checkIlen_congr hlen,
    cresp_congr hlength (State.take_input_congr hlen hbytes)]

theorem length_hashResult {s : State} {out : List Byte} (h : hashResult s = .ok out) : out.length = 8 := by
  obtain ⟨-, -, h⟩ := except_bind_eq_ok.mp h
  obtain ⟨m, -, h⟩ := except_bind_eq_ok.mp h
  exact hash_length h

theorem agreeObuf_emit {s s' : State} {n : Nat} {bs : List Byte} (h : bs.length = n) :
    AgreeObuf (s.emit n bs).succeed (s'.emit n bs).succeed n := by
  refine ⟨rfl, fun i hi => ?_⟩
  have hin : i < bs.length := h ▸ hi
  have hread : ∀ u : State, (u.emit n bs).obuf.read i = byteAt bs i := fun u =>
    (u.emit_overwritten n bs i).trans (if_pos hin)
  exact (hread s).trans (hread s').symm

/-- Settles O37: each instruction's computed value is a function of its row's operands. -/
theorem resultsDependOnListedOperandsOnly : Obligations.ResultsDependOnListedOperandsOnly := by
  intro i s s' t t' hreads h h'
  cases i with
  | modesel =>
    exact results_agree h h' (exec_modesel_eq s) (exec_modesel_eq s') (congrArg fromMode hreads) fun _ _ => rfl
  | hash =>
    obtain ⟨hmode, hlen, hbytes⟩ := hreads
    have hsame : hashResult s = hashResult s' := by
      rw [hashResult, hashResult, State.checkIlen_congr hlen, hmode, State.input_congr hlen hbytes]
    exact results_agree h h' (exec_hash_eq s) (exec_hash_eq s') hsame fun _ ha => agreeObuf_emit (length_hashResult ha)
  | crc32 =>
    obtain ⟨hinit, hlen, hbytes⟩ := hreads
    have hsame : crc32Result s = crc32Result s' := by
      rw [crc32Result, crc32Result, State.checkIlen_congr hlen, hinit, State.input_congr hlen hbytes]
    exact results_agree h h' (exec_crc32_eq s) (exec_crc32_eq s') hsame fun _ _ => rfl
  | encCreq =>
    have hsame : creq Config.params s.seq = creq Config.params s'.seq := congrArg _ hreads
    exact results_agree h h' (exec_encCreq_eq s) (exec_encCreq_eq s') (congrArg _ hsame) fun _ ha =>
      agreeObuf_emit (by cases ha; rfl)
  | decCresp =>
    obtain ⟨hlen, hbytes⟩ := hreads
    exact results_agree h h' (exec_decCresp_eq s) (exec_decCresp_eq s') (decCrespResult_congr hlen hbytes)
      fun _ _ => ⟨rfl, rfl⟩
  | encHb =>
    have hsame : s.request = s'.request := by
      obtain ⟨hseq, htype, huid, h0, h1, h2, h3, h4, h5, hip, hflag, hseed⟩ := hreads
      simp only [State.request, hseq, htype, huid, h0, h1, h2, h3, h4, h5, hip, hflag, hseed]
    exact results_agree h h' (emitHb_eq s s.request) (emitHb_eq s' s'.request) (congrArg _ hsame) fun _ ha =>
      agreeObuf_emit (length_hb ha)
  | pktCreq p =>
    exact results_agree h h' (exec_pktCreq_eq p s) (exec_pktCreq_eq p s') rfl fun _ ha =>
      agreeObuf_emit (by cases ha; rfl)
  | pktCresp p =>
    exact results_agree h h' (exec_pktCresp_eq p s) (exec_pktCresp_eq p s') rfl fun _ _ => ⟨rfl, rfl⟩
  | pktHb p =>
    exact results_agree h h' (emitHb_eq s p.request) (emitHb_eq s' p.request) rfl fun _ ha =>
      agreeObuf_emit (length_hb ha)


/-! A placed word runs first (R104, R210) -/

theorem State.takeTurn_of_nil {s : State} (h : s.turns = []) : s.takeTurn = s := by
  have htail : s.turns.tail = s.turns := by rw [h, List.tail_nil]
  rw [State.takeTurn, htail]

/-- With no turn listed a started command completes next (assumption log 11). -/
theorem step_of_started {s : State} {i : Instr} (hbusy : s.status.busy = true) (hturns : s.turns = [])
    (hcode : decode .cmd8 [s.status.lastop] = .ok i) : step s = exec i s := by
  have hagent : s.nextAgent = .core := by simp [State.nextAgent, hturns, hbusy]
  have hturn : s.takeTurn = s := State.takeTurn_of_nil hturns
  rcases step_cases s with ⟨-, -, j, hj, hrun⟩ | ⟨-, -, e, he, -⟩ | ⟨-, hidle, -⟩ | ⟨hhost, -⟩
  · cases hcode.symm.trans hj
    rw [hrun, hturn]
  · cases hcode.symm.trans he
  · cases hbusy.symm.trans hidle
  · cases hagent.symm.trans hhost

theorem step_start {s : State} {code : Byte} {i : Instr} (hturns : s.turns = []) (h : decode .cmd8 [code] = .ok i) :
    step (s.start code) = exec i (s.start code) :=
  step_of_started rfl hturns h

theorem step_placeCommand (s : State) {code : Byte} {i : Instr} (h : decode .cmd8 [code] = .ok i) :
    step (s.placeCommand code) = exec i (s.placeCommand code) :=
  step_start (s := { s with turns := [] }) rfl h

/-- ENC_CREQ with a packet's operands placed does what the packet does. -/
theorem exec_encCreq_placeCreq (p : CreqPacket) (s : State) :
    exec .encCreq (s.placeCreq p) = exec (.pktCreq p) (s.placeCreq p) := rfl

theorem State.placeCresp_input (s : State) (p : CrespPacket) : (s.placeCresp p).input = p.bytes :=
  s.ibuf.readBytes_writeBytes 0 p.bytes

/-- DEC_CRESP with a packet's bytes placed does what the packet does: sixteen bytes always fit IBUF (R11). -/
theorem exec_decCresp_placeCresp (p : CrespPacket) (s : State) :
    exec .decCresp (s.placeCresp p) = exec (.pktCresp p) (s.placeCresp p) := by
  have hfits : (s.placeCresp p).checkIlen = .ok () := if_neg (Nat.not_lt.mpr sixteen_le_ibufCap)
  rw [exec_decCresp_eq, exec_pktCresp_eq, decCrespResult, hfits, s.placeCresp_input p]
  rfl

theorem State.placeHb_request (s : State) (p : HbPacket) : (s.placeHb p).request = p.request := by
  have hflag : flagOfBit (s.placeHb p).flag = p.flag := flagOfBit_bitOfFlag p.flag
  rw [State.request, hflag]
  rfl

/-- ENC_HB with a packet's operand fields placed does what the packet does. -/
theorem exec_encHb_placeHb (p : HbPacket) (s : State) :
    exec .encHb (s.placeHb p) = exec (.pktHb p) (s.placeHb p) := by
  rw [exec_encHb, exec_pktHb, s.placeHb_request p]

theorem step_place (i : Instr) (s : State) : step (s.place i) = exec i (s.place i) := by
  cases i with
  | pktCreq p => exact (step_placeCommand _ (decode_encode .encCreq)).trans (exec_encCreq_placeCreq p s)
  | pktCresp p => exact (step_placeCommand _ (decode_encode .decCresp)).trans (exec_decCresp_placeCresp p s)
  | pktHb p => exact (step_placeCommand _ (decode_encode .encHb)).trans (exec_encHb_placeHb p s)
  | modesel => exact step_placeCommand s (decode_encode .modesel)
  | hash => exact step_placeCommand s (decode_encode .hash)
  | crc32 => exact step_placeCommand s (decode_encode .crc32)
  | encCreq => exact step_placeCommand s (decode_encode .encCreq)
  | decCresp => exact step_placeCommand s (decode_encode .decCresp)
  | encHb => exact step_placeCommand s (decode_encode .encHb)

/-- Settles O2: a word that decodes is placed as its instruction. -/
theorem placedWordRunsFirst : Obligations.PlacedWordRunsFirst := by
  intro s nbits w i h
  have hplace : s.withFetchWord nbits w = s.place i := by
    simp only [State.withFetchWord, State.placeWord, h]
  rw [hplace, step_place]

/-! The host's script, move by move (R102, R103) -/

theorem State.pollStatus_eq (s : State) : s.pollStatus =
    { s with
      script := if s.status.busy then .poll :: s.script else s.script
      reads := { loc := .reg .status, value := s.hostRead (.reg .status) } :: s.reads } := by
  obtain ⟨hbusy, -⟩ := s.status.word_fields
  simp only [State.pollStatus, hbusy]
  cases s.status.busy <;> rfl

/-- Settles O47: a poll of the state with the turn and the operation taken off. -/
theorem waitRepeatsWhileBusy : Obligations.WaitRepeatsWhileBusy := by
  intro s rest hnext
  have hread : (s.afterTurn rest).hostRead (.reg .status) = s.hostRead (.reg .status) :=
    (s.sameBlock_afterTurn rest).hostRead _
  rw [hostTurnPerformsNextOperation.left s _ rest hnext, State.performOp, State.pollStatus_eq, hread]
  rfl

/-! The default schedule: with no turn listed the host moves while no command is under way (assumption log 11) -/

theorem hostsNext_of_idle {s : State} {op : HostOp} {rest : List HostOp} (hidle : s.status.busy = false)
    (hturns : s.turns = []) (hscript : s.script = op :: rest) : HostsNext s op rest :=
  ⟨by simp [State.nextAgent, hturns, hidle], hscript⟩

theorem State.afterTurn_of_nil {s : State} (h : s.turns = []) (rest : List HostOp) :
    s.afterTurn rest = { s with script := rest } := by
  have htail : s.turns.tail = s.turns := by rw [h, List.tail_nil]
  rw [State.afterTurn, htail]

theorem step_of_idle {s : State} {op : HostOp} {rest : List HostOp} (hidle : s.status.busy = false)
    (hturns : s.turns = []) (hscript : s.script = op :: rest) :
    step s = .next (State.performOp { s with script := rest } op) := by
  rw [hostTurnPerformsNextOperation.left s op rest (hostsNext_of_idle hidle hturns hscript),
    State.afterTurn_of_nil hturns]

theorem step_read_of_idle {s : State} {l : Loc} {rest : List HostOp} (hidle : s.status.busy = false)
    (hturns : s.turns = []) (hscript : s.script = .move (.read l) :: rest) :
    step s = .next { s with script := rest, reads := { loc := l, value := s.hostRead l } :: s.reads } := by
  rw [readHasNoSideEffect s l rest (hostsNext_of_idle hidle hturns hscript), State.afterTurn_of_nil hturns]

/-- A register write of the script, on an idle block. -/
theorem step_writeReg_of_idle {s : State} {r : Reg} {v : BitVec r.width} {rest : List HostOp} (hr : r.access ≠ .ro)
    (hidle : s.status.busy = false) (hturns : s.turns = []) (hscript : s.script = HostOp.writeReg r v :: rest) :
    step s = .next (({ s with script := rest } : State).writeReg r v) :=
  (step_of_idle hidle hturns hscript).trans (congrArg _ (State.hostWrite_of_idle (l := .reg r) rfl hr hidle))

/-- A byte written to IBUF by the script, on an idle block. -/
theorem step_writeIbuf_of_idle {s : State} {i : Nat} {b : Byte} {rest : List HostOp} (hi : i < Config.ibufCap)
    (hidle : s.status.busy = false) (hturns : s.turns = []) (hscript : s.script = HostOp.writeIbuf i b :: rest) :
    step s = .next { s with ibuf := s.ibuf.write i b, script := rest } := by
  have hinside : (Loc.ibuf i).outside = false := decide_eq_false (Nat.not_le.mpr hi)
  have hwritable : (Loc.ibuf i).access ≠ .ro := nofun
  exact (step_of_idle hidle hturns hscript).trans (congrArg _ (State.hostWrite_of_idle hinside hwritable hidle))

/-- A write-back of the script, on an idle block that has read. -/
theorem step_writeBack_of_idle {s : State} {dst : Reg} {read : Reading} {earlier : List Reading} {rest : List HostOp}
    (hdst : dst.access ≠ .ro) (hidle : s.status.busy = false) (hturns : s.turns = [])
    (hscript : s.script = .writeBack dst :: rest) (hreads : s.reads = read :: earlier) :
    step s = .next (({ s with script := rest } : State).writeReg dst (read.value.setWidth dst.width)) := by
  rw [step_of_idle hidle hturns hscript]
  simp only [State.performOp, State.writeBack, hreads]
  exact congrArg _ (State.hostWrite_of_idle (l := .reg dst) rfl hdst hidle)

/-! MOV -/

theorem run_one_of_step {s t : State} (h : step s = .next t) : core.run 1 s = .next t :=
  run_succ_of_step 0 h

theorem State.writeReg_script (s : State) (r : Reg) (v : BitVec r.width) : (s.writeReg r v).script = s.script := by
  cases r <;> rfl

/-- No register shows the script or what the host has read. -/
theorem State.readReg_withHost (s : State) (script : List HostOp) (reads : List Reading) (r : Reg) :
    ({ s with script := script, reads := reads } : State).readReg r = s.readReg r := by
  cases r <;> rfl

/-- The two moves of MOV on an idle block: the read, and the write of what it returned. -/
theorem run_mov {s : State} {dst src : Reg} {rest : List HostOp} (hdst : dst.access ≠ .ro)
    (hidle : s.status.busy = false) (hturns : s.turns = []) (hscript : s.script = Line.expand (.mov dst src) ++ rest) :
    core.run 2 s = .next
      (({ s with script := rest, reads := { loc := .reg src, value := s.readReg src } :: s.reads } : State).writeReg dst
        ((s.readReg src).setWidth dst.width)) := by
  have hwrite := step_writeBack_of_idle (s := { s with
      script := .writeBack dst :: rest, reads := { loc := .reg src, value := s.readReg src } :: s.reads })
    hdst hidle hturns rfl rfl
  exact (run_succ_of_step 1 (step_read_of_idle hidle hturns hscript)).trans (run_one_of_step hwrite)

/-- Settles O48: the value read has DST's width, so the write-back stores all of it. -/
theorem movCopiesTheRegister : Obligations.MovCopiesTheRegister := by
  intro s dst src rest hidle hturns hrw hwidth hscript
  have hcmd : dst ≠ .cmd := by
    rintro rfl
    cases hrw
  have hstatus : dst ≠ .status := by
    rintro rfl
    cases hrw
  have hwhole : (s.readReg src).toNat < 2 ^ dst.width := by
    rw [hwidth]
    exact (s.readReg src).isLt
  refine ⟨_, run_mov (by simp [hrw]) hidle hturns hscript, ?copied, State.writeReg_script _ _ _, ?kept⟩
  case copied =>
    rw [State.readReg_writeReg _ _ hcmd hstatus, dif_pos rfl]
    exact (BitVec.toNat_setWidth _ _).trans (Nat.mod_eq_of_lt hwhole)
  case kept =>
    intro r hr
    rw [State.readReg_writeReg _ _ hcmd hstatus, dif_neg hr, s.readReg_withHost]

/-! LOAD -/

theorem ibufCap_lt : Config.ibufCap < 65536 := by
  have hspare := Config.ibufSpare.isLt
  simp only [Config.ibufCap]
  omega

theorem Memory.overwritten_writeBytes (m : Memory) (bs : List Byte) : m.Overwritten (m.writeBytes 0 bs) bs := by
  intro i
  simp [Memory.read_writeBytes, byteAt]

/-- The byte writes of LOAD on an idle block, one step each. -/
theorem run_loadBytes (bytes : List Byte) (k : Nat) {i : Nat} {s : State} {rest : List HostOp}
    (hidle : s.status.busy = false) (hturns : s.turns = []) (hfits : i + bytes.length ≤ Config.ibufCap)
    (hscript : s.script = loadBytes i bytes ++ rest) :
    core.run (bytes.length + k) s = core.run k { s with ibuf := s.ibuf.writeBytes i bytes, script := rest } := by
  induction bytes generalizing i s with
  | nil =>
    have hsame : s = { s with script := rest } := by
      rw [loadBytes, List.nil_append] at hscript
      rw [← hscript]
    rw [List.length_nil, Nat.zero_add]
    exact congrArg _ hsame
  | cons b bs ih =>
    rw [List.length_cons] at hfits ⊢
    rw [Nat.add_right_comm, run_succ_of_step _ (step_writeIbuf_of_idle (by omega) hidle hturns hscript)]
    exact ih hidle hturns (by omega) rfl

theorem run_load {s : State} {bytes : List Byte} {rest : List HostOp} (hidle : s.status.busy = false)
    (hturns : s.turns = []) (hfits : bytes.length ≤ Config.ibufCap)
    (hscript : s.script = Line.expand (.load bytes) ++ rest) :
    core.run (bytes.length + 1) s = .next
      { s with ibuf := s.ibuf.writeBytes 0 bytes, ilen := BitVec.ofNat 16 bytes.length, script := rest } := by
  have hwrites : s.script = loadBytes 0 bytes ++ ([HostOp.writeReg .ilen (BitVec.ofNat 16 bytes.length)] ++ rest) :=
    hscript.trans (List.append_assoc _ _ _)
  have hbytes := run_loadBytes bytes 1 hidle hturns (by omega) hwrites
  exact hbytes.trans (run_one_of_step (step_writeReg_of_idle (r := .ilen) (by decide) hidle hturns rfl))

/-- Settles O49: the length fits ILEN because it fits IBUF. -/
theorem loadFillsTheInput : Obligations.LoadFillsTheInput := by
  intro s bytes rest hidle hturns hfits hscript
  have hlen : (BitVec.ofNat 16 bytes.length).toNat = bytes.length :=
    Nat.mod_eq_of_lt (Nat.lt_of_le_of_lt hfits ibufCap_lt)
  refine ⟨_, run_load hidle hturns hfits hscript, ?input, rfl, s.ibuf.overwritten_writeBytes bytes⟩
  case input =>
    rw [← State.input_eq, State.input, hlen]
    exact s.ibuf.readBytes_writeBytes 0 bytes

/-! RUN -/

theorem decode_code (m : Mnemonic) : decode .cmd8 [m.code] = .ok m.instr := by
  cases m <;> rfl

/-- No instruction faults and none is refused (R200). -/
theorem exec_goes (i : Instr) (s : State) : Goes (exec i s) := by
  rcases exec_cases i s with ⟨u, -, h⟩ | ⟨e, h⟩
  · exact ⟨_, h⟩
  · exact ⟨_, h⟩

/-- A read of STATUS of an idle block ends WAIT. -/
theorem step_poll_of_idle {s : State} {rest : List HostOp} (hidle : s.status.busy = false) (hturns : s.turns = [])
    (hscript : s.script = .poll :: rest) :
    step s = .next
      { s with script := rest, reads := { loc := .reg .status, value := s.status.word } :: s.reads } := by
  rw [step_of_idle hidle hturns hscript, State.performOp, State.pollStatus_eq]
  simp only [hidle]
  rfl

theorem Status.word_even {st : Status} (h : st.busy = false) : st.word.toNat % 2 = 0 := by
  rw [Status.word_toNat, h, Bool.toNat_false]
  omega

/-- Settles O50: the CMD write, the completion, and one read of STATUS. -/
theorem runLineStartsWaitsAndEnds : Obligations.RunLineStartsWaitsAndEnds := by
  intro s m rest hidle hturns hscript
  have hstart : step s = .next (({ s with script := .poll :: rest } : State).start m.code) :=
    step_writeReg_of_idle (r := .cmd) (by decide) hidle hturns hscript
  obtain ⟨t, hexec⟩ := exec_goes m.instr (({ s with script := .poll :: rest } : State).start m.code)
  have hcomplete := (step_start (s := { s with script := .poll :: rest }) hturns (decode_code m)).trans hexec
  obtain ⟨-, -, -, -, -, -, -, -, -, -, -, hlastop, hdone, hrest, hnoTurns, hreads⟩ :=
    operandsAreNeverWritten _ _ _ hexec
  have hpoll := step_poll_of_idle hdone (hnoTurns.trans hturns) hrest
  have hrun := (run_succ_of_step 2 hstart).trans ((run_succ_of_step 1 hcomplete).trans (run_one_of_step hpoll))
  exact ⟨_, hrun, hdone, hlastop, rfl, _, congrArg _ hreads, rfl, Status.word_even hdone⟩

end Sys2Proof.Machine

/-! PROOFS of the family 40_checksum_strategy.md. The selector byte of each mode, said once (`fromMode_cases`), HASH by
what it computes (`hashResult_eq`), and the statements settled with them. -/

namespace Sys2Proof.Machine

/-! The mode selector (R121) -/

/-- A byte is the number of a mode and selects it, or it is 4 or more and selects none. -/
theorem fromMode_cases (b : Byte) :
    (∃ m, m.number.toNat = b.toNat ∧ fromMode b = .ok m) ∨ (4 ≤ b.toNat ∧ fromMode b = .error .modeNotExist) := by
  unfold fromMode
  split
  next h => exact .inl ⟨.none, h.symm, rfl⟩
  next h => exact .inl ⟨.md5, h.symm, rfl⟩
  next h => exact .inl ⟨.md4, h.symm, rfl⟩
  next h => exact .inl ⟨.sha1, h.symm, rfl⟩
  next h0 h1 h2 h3 =>
    have hne : b.toNat ≠ 0 ∧ b.toNat ≠ 1 ∧ b.toNat ≠ 2 ∧ b.toNat ≠ 3 := ⟨h0, h1, h2, h3⟩
    exact .inr ⟨by omega, rfl⟩

theorem fromMode_of_lt {b : Byte} (h : b.toNat < 4) : ∃ m, m.number = BitVec.ofNat 2 b.toNat ∧ fromMode b = .ok m := by
  rcases fromMode_cases b with ⟨m, hnum, hm⟩ | ⟨hge, -⟩
  · exact ⟨m, by rw [← hnum, BitVec.ofNat_toNat, BitVec.setWidth_eq], hm⟩
  · omega

theorem fromMode_of_four_le {b : Byte} (h : 4 ≤ b.toNat) : fromMode b = .error .modeNotExist := by
  rcases fromMode_cases b with ⟨m, hnum, -⟩ | ⟨-, herr⟩
  · have hlt := m.number.isLt
    omega
  · exact herr

/-- Settles O7: the four selector bytes are the numbers of the modes, and every other byte is 4 or more. -/
theorem fromModeMapsSelectorBytes : Obligations.FromModeMapsSelectorBytes := by
  intro b
  rcases fromMode_cases b with ⟨m, hnum, -⟩ | ⟨hge, herr⟩
  · have hb : b = BitVec.ofNat 8 m.number.toNat := by rw [hnum, BitVec.ofNat_toNat, BitVec.setWidth_eq]
    subst hb
    cases m <;> rfl
  · have hne : ∀ c : Byte, c.toNat < 4 → b ≠ c := by
      rintro c hc rfl
      omega
    rw [herr, if_neg (hne 0 (by decide)), if_neg (hne 1 (by decide)), if_neg (hne 2 (by decide)),
      if_neg (hne 3 (by decide))]

/-! MODESEL (R128) -/

/-- Settles O8: R_MODE takes the number of the mode selected, or the selection fails. -/
theorem modeselWritesRModeOrFails : Obligations.ModeselWritesRModeOrFails := by
  intro s
  refine ⟨fun hlt => ?selected, fun hge => ?rejected⟩
  case selected =>
    obtain ⟨m, hnum, hm⟩ := fromMode_of_lt hlt
    rw [exec_modesel_eq, hm, ← hnum]
    rfl
  case rejected =>
    rw [exec_modesel_eq, fromMode_of_four_le hge]
    rfl

/-! The hash (R122 to R126) -/

theorem extract_sha1 (d : List Byte) :
    extract .sha1 d = if 17 ≤ d.length then .ok (keptSha1 d) else .error .retainCount :=
  extract_eq_ite (by
    simp only [retain, List.forall_mem_cons, List.not_mem_nil, false_implies, implies_true, and_true]
    omega)

/-- Mode None retains the whole synthetic digest, which no input and no parameter enters (R122, R123). -/
theorem hash_none (P : Params) (buf : List Byte) : Machine.hash P .none buf = .ok [199, 47, 49, 1, 126, 0, 0, 0] := rfl

/-- The standard digest lengths 16, 16 and 20 reach past the greatest offset of each row of R122. -/
theorem hash_ok_of_digestLenStd {P : Params} (hstd : P.DigestLenStd) (m : Mode) (buf : List Byte) :
    ∃ out, Machine.hash P m buf = .ok out := by
  obtain ⟨hmd5, hmd4, hsha1⟩ := hstd buf
  cases m with
  | none => exact ⟨_, hash_none P buf⟩
  | md5 => exact ⟨_, (extract_md5 (P.digest .md5 buf)).trans (if_pos (by omega))⟩
  | md4 => exact ⟨_, (extract_md4 (P.digest .md4 buf)).trans (if_pos (by omega))⟩
  | sha1 => exact ⟨_, (extract_sha1 (P.digest .sha1 buf)).trans (if_pos (by omega))⟩

/-- Settles O12: under DIGEST_LEN_STD no extraction fails, and one that succeeds gives eight bytes. -/
theorem hashReturnsEightBytes : Obligations.HashReturnsEightBytes := by
  refine ⟨fun P hstd m buf => ?_, hash_none⟩
  obtain ⟨out, hout⟩ := hash_ok_of_digestLenStd hstd m buf
  exact ⟨out, hout, hash_length hout⟩

/-! HASH (R129) -/

/-- What HASH computes, in the order its tests are made (R129, R207). -/
theorem hashResult_eq (s : State) : hashResult s =
    if Config.ibufCap < s.ilen.toNat then .error .ilenRange
    else (fromMode s.mode).bind fun m => Machine.hash Config.params m (inputBytes s) := by
  rw [hashResult, State.checkIlen, State.input_eq]
  split <;> rfl

theorem hashResult_of_mode {s : State} {m : Mode} (hcap : s.ilen.toNat ≤ Config.ibufCap) (hm : fromMode s.mode = .ok m) :
    hashResult s = Machine.hash Config.params m (inputBytes s) := by
  rw [hashResult_eq, if_neg (Nat.not_lt.mpr hcap), hm]
  rfl

theorem exec_hash_of_ok {s : State} {out : List Byte} (h : hashResult s = .ok out) : EmitsOnly (exec .hash s) s out := by
  rw [exec_hash_eq, h]
  exact emitsOnly_of_complete s (length_hashResult h)

theorem exec_hash_of_error {s : State} {e : ErrCode} (h : hashResult s = .error e) :
    exec .hash s = .next (s.ended e.code) := by
  rw [exec_hash_eq, h]
  rfl

/-- Settles O9: the length is tested before the selector. -/
theorem hashRejectsOtherSelectors : Obligations.HashRejectsOtherSelectors := by
  intro s hge
  have hresult := hashResult_eq s
  split at hresult
  next hlong => rw [if_pos hlong, exec_hash_of_error hresult, ErrCode.code]
  next hfits =>
    rw [fromMode_of_four_le hge] at hresult
    rw [if_neg hfits, exec_hash_of_error hresult, ErrCode.code]

/-- Settles O10: the hash of mode None is the synthetic digest. -/
theorem hashModeNoneWritesSynth : Obligations.HashModeNoneWritesSynth := by
  intro s hcap hmode
  have hm : fromMode s.mode = .ok .none := congrArg fromMode hmode
  exact exec_hash_of_ok ((hashResult_of_mode hcap hm).trans (hash_none _ _))

/-- HASH in a mode whose hash succeeds exactly where the digest is long enough. -/
theorem exec_hash_of_mode {s : State} {m : Mode} {kept : List Byte} {c : Prop} [Decidable c]
    (hcap : s.ilen.toNat ≤ Config.ibufCap) (hm : fromMode s.mode = .ok m)
    (hhash : Machine.hash Config.params m (inputBytes s) = if c then .ok kept else .error .retainCount) :
    if c then EmitsOnly (exec .hash s) s kept else exec .hash s = .next (s.ended 0x03) := by
  have hresult := (hashResult_of_mode hcap hm).trans hhash
  split
  next hlong =>
    rw [if_pos hlong] at hresult
    exact exec_hash_of_ok hresult
  next hshort =>
    rw [if_neg hshort] at hresult
    exact exec_hash_of_error hresult

/-- Settles O11: the retain table of the mode, applied to the digest of the input. -/
theorem hashWritesRetainedDigestBytes : Obligations.HashWritesRetainedDigestBytes := by
  intro s hcap
  refine ⟨fun hmode => ?md5, fun hmode => ?md4, fun hmode => ?sha1⟩
  case md5 => exact exec_hash_of_mode (m := .md5) hcap (congrArg fromMode hmode) (extract_md5 _)
  case md4 => exact exec_hash_of_mode (m := .md4) hcap (congrArg fromMode hmode) (extract_md4 _)
  case sha1 => exact exec_hash_of_mode (m := .sha1) hcap (congrArg fromMode hmode) (extract_sha1 _)

end Sys2Proof.Machine

/-! PROOFS of the family 41_fallback_xor.md. A concatenation folds in two steps (`crc32_append`), from which the laws on
words follow; CRC32 by what it computes (`crc32Result_eq`), and the statements settled with them. -/

namespace Sys2Proof.Machine

/-! The words of a concatenation (R141) -/

theorem wordAt_append_left {a : List Byte} {k : Nat} (b : List Byte) (h : 4 * k + 4 ≤ a.length) :
    wordAt (a ++ b) k = wordAt a k := by
  have hdrop : 4 ≤ (a.drop (4 * k)).length := by
    rw [List.length_drop]
    omega
  rw [wordAt, wordAt, slice, slice, List.drop_append_of_le_length (by omega), List.take_append_of_le_length hdrop]

theorem wordAt_append_right {a : List Byte} {n : Nat} (b : List Byte) (k : Nat) (h : a.length = 4 * n) :
    wordAt (a ++ b) (n + k) = wordAt b k := by
  rw [wordAt, wordAt, slice, slice, Nat.mul_add, ← h, List.drop_length_add_append]

/-! The fold (R140, R143) -/

theorem xorWords_append_left {a : List Byte} {n : Nat} (b : List Byte) (i : U32) (h : a.length = 4 * n) :
    xorWords (a ++ b) n i = xorWords a n i := by
  refine List.foldl_ext _ _ _ fun acc k hk => ?_
  have hlt : k < n := List.mem_range.mp hk
  rw [wordAt_append_left b (by omega)]

/-- The words of `a ++ b` are the words of `a` and then the words of `b`. -/
theorem xorWords_append {a : List Byte} {n : Nat} (b : List Byte) (m : Nat) (i : U32) (h : a.length = 4 * n) :
    xorWords (a ++ b) (n + m) i = xorWords b m (xorWords a n i) := by
  have hright : xorWords (a ++ b) (n + m) i = xorWords b m (xorWords (a ++ b) n i) := by
    simp only [xorWords, List.range_add, List.foldl_append, List.foldl_map, wordAt_append_right b _ h]
  rw [hright, xorWords_append_left b i h]

/-- The initial value comes out of the fold. -/
theorem xorWords_eq_xor_zero (bytes : List Byte) (n : Nat) (i : U32) :
    xorWords bytes n i = i ^^^ xorWords bytes n 0 := by
  induction n with
  | zero => exact (BitVec.xor_zero).symm
  | succ n ih =>
    simp only [xorWords, List.range_succ, List.foldl_append] at ih ⊢
    exact (congrArg (· ^^^ wordAt bytes n) ih).trans (BitVec.xor_assoc _ _ _)

theorem crc32_of_mod_eq {bytes : List Byte} (i : U32) (h : bytes.length % 4 = 0) :
    crc32 bytes i = .ok (xorWords bytes (bytes.length / 4) i) := by
  rcases crc32_cases bytes i with ⟨hne, -⟩ | ⟨-, hok⟩
  · exact absurd h hne
  · exact hok

theorem crc32_of_mod_ne {bytes : List Byte} (i : U32) (h : bytes.length % 4 ≠ 0) :
    crc32 bytes i = .error .inputLengthInvalid := by
  rcases crc32_cases bytes i with ⟨-, herr⟩ | ⟨heq, -⟩
  · exact herr
  · exact absurd heq h

theorem crc32_nil (i : U32) : crc32 [] i = .ok i := rfl

theorem crc32_eq_map_zero (bytes : List Byte) (i : U32) : crc32 bytes i = (crc32 bytes 0).map fun c => i ^^^ c := by
  by_cases h : bytes.length % 4 = 0
  · rw [crc32_of_mod_eq i h, crc32_of_mod_eq 0 h, xorWords_eq_xor_zero]
    rfl
  · rw [crc32_of_mod_ne i h, crc32_of_mod_ne 0 h]
    rfl

/-- Where `b` is no whole number of words, neither is the concatenation, and both sides fail. -/
theorem crc32_append {a : List Byte} (b : List Byte) (i : U32) (ha : a.length % 4 = 0) :
    crc32 (a ++ b) i = (crc32 a i).bind fun c => crc32 b c := by
  have hlen : (a ++ b).length = a.length + b.length := List.length_append
  rw [crc32_of_mod_eq i ha, Except.bind]
  by_cases hb : b.length % 4 = 0
  · have hwords : (a ++ b).length / 4 = a.length / 4 + b.length / 4 := by omega
    rw [crc32_of_mod_eq i (by omega), crc32_of_mod_eq _ hb, hwords, xorWords_append b _ i (by omega)]
  · rw [crc32_of_mod_ne i (by omega), crc32_of_mod_ne _ hb]

theorem length_le32_mod (w : U32) : (le32 w).length % 4 = 0 := by
  rw [length_le32]

theorem crc32_le32 (w i : U32) : crc32 (le32 w) i = .ok (i ^^^ w) := by
  have hone : (le32 w).length / 4 = 1 := by rw [length_le32]
  have hword : xorWords (le32 w) 1 i = i ^^^ fromLe32 (le32 w) := rfl
  rw [crc32_of_mod_eq i (length_le32_mod w), hone, hword, fromLe32_le32]

theorem crc32_le32_append (w : U32) (bytes : List Byte) (i : U32) :
    crc32 (le32 w ++ bytes) i = crc32 bytes (i ^^^ w) := by
  rw [crc32_append bytes i (length_le32_mod w), crc32_le32, Except.bind]

theorem crc32_flatMap_le32 (ws : List U32) (i : U32) :
    crc32 (ws.flatMap le32) i = .ok (ws.foldl (· ^^^ ·) i) := by
  induction ws generalizing i with
  | nil => exact crc32_nil i
  | cons w ws ih => rw [List.flatMap_cons, crc32_le32_append, ih, List.foldl_cons]

theorem rightCommutative_xor : RightCommutative (fun a b : U32 => a ^^^ b) :=
  ⟨fun a b c => by rw [BitVec.xor_assoc, BitVec.xor_comm b, ← BitVec.xor_assoc]⟩

theorem crc32_flatMap_perm {ws vs : List U32} (i : U32) (h : ws.Perm vs) :
    crc32 (ws.flatMap le32) i = crc32 (vs.flatMap le32) i := by
  have hfold := h.foldl_eq (rcomm := rightCommutative_xor) i
  rw [crc32_flatMap_le32, crc32_flatMap_le32, hfold]

theorem crc32_cancel (w : U32) (bytes : List Byte) (i : U32) :
    crc32 (le32 w ++ le32 w ++ bytes) i = crc32 bytes i := by
  rw [List.append_assoc, crc32_le32_append, crc32_le32_append, BitVec.xor_assoc, BitVec.xor_self, BitVec.xor_zero]

/-- Settles O15: the order of words and the cancelling of words go back to the fold of a list of words. -/
theorem foldLawsOfCrc32 : Obligations.FoldLawsOfCrc32 :=
  ⟨fun _ _ i => crc32_flatMap_perm i, crc32_cancel, crc32_eq_map_zero, fun _ b i => crc32_append b i, crc32_nil⟩

/-! CRC32 (R142) -/

/-- What CRC32 computes, in the order its tests are made (R142, R207). -/
theorem crc32Result_eq (s : State) : crc32Result s =
    if Config.ibufCap < s.ilen.toNat then .error .ilenRange else crc32 s.input s.init := by
  rw [crc32Result, State.checkIlen]
  split <;> rfl

theorem exec_crc32_of_ok {s : State} {c : U32} (h : crc32Result s = .ok c) :
    exec .crc32 s = .next (({ s with rCrc := c } : State).ended 0x00) := by
  rw [exec_crc32_eq, h]
  rfl

theorem exec_crc32_of_error {s : State} {e : ErrCode} (h : crc32Result s = .error e) :
    exec .crc32 s = .next (s.ended e.code) := by
  rw [exec_crc32_eq, h]
  rfl

theorem State.byteAt_input {s : State} {i : Nat} (h : i < s.ilen.toNat) : byteAt s.input i = s.ibuf.read i := by
  rw [State.input, byteAt, Memory.readBytes_getD, if_pos h, Nat.zero_add]

theorem wordAt_eq_littleWord {bytes : List Byte} {k : Nat} (h : 4 * k + 4 ≤ bytes.length) :
    wordAt bytes k = littleWord (byteAt bytes (4 * k)) (byteAt bytes (4 * k + 1)) (byteAt bytes (4 * k + 2))
      (byteAt bytes (4 * k + 3)) := by
  rw [wordAt, slice_eq_map h]
  exact fromLe32_eq_littleWord _ _ _ _

/-- A whole word of the input, in the bytes of IBUF. -/
theorem State.wordAt_input {s : State} {k : Nat} (h : 4 * k + 4 ≤ s.ilen.toNat) :
    wordAt s.input k = littleWord (s.ibuf.read (4 * k)) (s.ibuf.read (4 * k + 1)) (s.ibuf.read (4 * k + 2))
      (s.ibuf.read (4 * k + 3)) := by
  rw [wordAt_eq_littleWord (by rwa [s.length_input]), State.byteAt_input (by omega), State.byteAt_input (by omega),
    State.byteAt_input (by omega), State.byteAt_input (by omega)]

/-- Settles O13: every word below ILEN / 4 lies inside the input. -/
theorem crc32FoldsLittleEndianWords : Obligations.Crc32FoldsLittleEndianWords := by
  intro s hcap hmod
  have hlen : s.input.length % 4 = 0 := by rwa [s.length_input]
  refine exec_crc32_of_ok ?_
  rw [crc32Result_eq, if_neg (Nat.not_lt.mpr hcap), crc32_of_mod_eq _ hlen, s.length_input]
  refine congrArg Except.ok (List.foldl_ext _ _ _ fun acc k hk => ?_)
  have hlt : k < s.ilen.toNat / 4 := List.mem_range.mp hk
  rw [State.wordAt_input (by omega)]

/-- Settles O14: the capacity is tested before the length of the input. -/
theorem crc32RejectsOtherLengths : Obligations.Crc32RejectsOtherLengths := by
  intro s hmod
  have hlen : s.input.length % 4 ≠ 0 := by rwa [s.length_input]
  have hresult := crc32Result_eq s
  split at hresult
  next hlong => rw [if_pos hlong, exec_crc32_of_error hresult, ErrCode.code]
  next hfits =>
    rw [crc32_of_mod_ne _ hlen] at hresult
    rw [if_neg hfits, exec_crc32_of_error hresult, ErrCode.code]

end Sys2Proof.Machine

/-! PROOFS of the family 42_challenge_request.md. ENC_CREQ emits as the packet of SEQ does (`exec_encCreq_eq_pktCreq`);
the laws of the packet are about the three parts it is built from (`creq_eq_append`). -/

namespace Sys2Proof.Machine

/-! ENC_CREQ (R152) -/

/-- ENC_CREQ is PKT_CREQ of a packet with SEQ's number; the packet's opcode byte has no part in either. -/
theorem exec_encCreq_eq_pktCreq (opc : Byte) (s : State) :
    exec .encCreq s = exec (.pktCreq { opc := opc, seq := s.seq }) s := rfl

/-- Settles O16: what PKT_CREQ emits for a packet with SEQ's number. -/
theorem encCreqEmitsChallengeRequest : Obligations.EncCreqEmitsChallengeRequest := by
  intro s
  rw [exec_encCreq_eq_pktCreq Config.opcCreq s]
  exact pktCreqEmitsItsPacket { opc := Config.opcCreq, seq := s.seq } s

/-! The laws of the Challenge Request (R150, R151) -/

/-- The parts of R150: the two bytes that vary, the magic, and the padding of D13. -/
theorem creq_eq_append (P : Params) (seq : Byte) :
    creq P seq = [P.opcCreq, seq] ++ (le32 Config.kCreqMagic ++ [0x00, 0x00]) := rfl

@[simp] theorem drop_two_creq (P : Params) (seq : Byte) :
    (creq P seq).drop 2 = le32 Config.kCreqMagic ++ [0x00, 0x00] := by
  rw [creq_eq_append]
  exact List.drop_left' rfl

/-- R151: bytes 2 to 5 are the magic's own bytes. -/
theorem slice_magic_creq (P : Params) (seq : Byte) : slice (creq P seq) 2 4 = le32 Config.kCreqMagic := by
  rw [slice, drop_two_creq]
  exact List.take_left' rfl

theorem fromLe32_magic_creq (P : Params) (seq : Byte) : fromLe32 (slice (creq P seq) 2 4) = 65544 := by
  rw [slice_magic_creq, fromLe32_le32, Config.kCreqMagic]

@[simp] theorem byteAt_one_creq (P : Params) (seq : Byte) : byteAt (creq P seq) 1 = seq := rfl

/-- R99: the length field, the low half of the magic, holds the packet's length. -/
theorem lengthField_creq (P : Params) (seq : Byte) :
    (byteAt (creq P seq) 2).toNat + 256 * (byteAt (creq P seq) 3).toNat = (creq P seq).length := by
  have hlow : byteAt (creq P seq) 2 = 0x08 := by rw [creq_eq]; rfl
  have hhigh : byteAt (creq P seq) 3 = 0x00 := by rw [creq_eq]; rfl
  rw [hlow, hhigh, length_creq]
  rfl

/-- Settles O17: the sequence number is byte 1, and what follows it is the magic and the padding. -/
theorem challengeRequestLaws : Obligations.ChallengeRequestLaws := by
  intro P seq seq'
  have htail : (creq P seq).drop 2 = (creq P seq').drop 2 := by rw [drop_two_creq, drop_two_creq]
  exact ⟨length_creq P seq, fromLe32_magic_creq P seq, lengthField_creq P seq, byteAt_one_creq P seq, htail⟩

end Sys2Proof.Machine

/-! PROOFS of the family 43_challenge_response.md. What `cresp` answers to an empty stream, to a foreign opcode and, once the
opcode is the right one, by the length alone (`cresp_of_opcode`); DEC_CRESP of an input that fits ends as that parse
(`exec_decCresp_of_fits`). -/

namespace Sys2Proof.Machine

/-! The parse by opcode and length (R161, R163, R165) -/

theorem cresp_nil (P : Params) : cresp P [] = .error .readOpcode := rfl

theorem cresp_of_mismatch {P : Params} {S : List Byte} (hlen : 1 ≤ S.length) (hopc : byteAt S 0 ≠ P.opcCresp) :
    cresp P S = .error .opcodeMismatch := by
  rw [cresp_eq, if_neg (Nat.not_lt.mpr hlen), if_pos hopc]

/-- With the right opcode the length alone decides. -/
theorem cresp_of_opcode {P : Params} {S : List Byte} (hlen : 1 ≤ S.length) (hopc : byteAt S 0 = P.opcCresp) :
    cresp P S =
      if S.length < 8 then .error .readReserved
      else if S.length < 12 then .error .readSeed
      else if S.length < 16 then .error .readSrcip
      else .ok (fromLe32 (slice S 8 4), fromBe32 (slice S 12 4)) := by
  rw [cresp_eq, if_neg (Nat.not_lt.mpr hlen), if_neg (not_not_intro hopc)]

theorem cresp_of_sixteen_le {P : Params} {S : List Byte} (hlen : 16 ≤ S.length) (hopc : byteAt S 0 = P.opcCresp) :
    cresp P S = .ok (fromLe32 (slice S 8 4), fromBe32 (slice S 12 4)) := by
  rw [cresp_of_opcode (by omega) hopc, if_neg (by omega), if_neg (by omega), if_neg (by omega)]

/-! PKT_CRESP (R164 and assumption log 6) -/

/-- Settles O30: the first byte of the packet's stream is its opcode. -/
theorem pktCrespRejectsOtherOpcode : Obligations.PktCrespRejectsOtherOpcode := by
  intro p s hopc
  have hlen : p.bytes.length = 16 := rfl
  have hfirst : byteAt p.bytes 0 ≠ Config.params.opcCresp := hopc
  rw [exec_pktCresp_eq, cresp_of_mismatch (by omega) hfirst]
  rfl

/-! The round trip (R167) -/

theorem slice_append_middle {a b : List Byte} {m n : Nat} (c : List Byte) (ha : a.length = m) (hb : b.length = n) :
    slice (a ++ b ++ c) m n = b := by
  rw [slice, List.append_assoc, List.drop_left' ha, List.take_left' hb]

/-- Settles O20: each field stands behind a prefix of known length, so a tail does not move it. -/
theorem challengeResponseRoundTrip : Obligations.ChallengeResponseRoundTrip := by
  intro P r tail seed ip hr
  have hhead : ([P.opcCresp] ++ r).length = 8 := by rw [List.length_append, hr, List.length_singleton]
  have hlen : 16 ≤ ([P.opcCresp] ++ r ++ le32 seed ++ be32 ip ++ tail).length := by
    simp only [List.length_append, List.length_singleton, length_le32, length_be32, hr]
    omega
  have hseed : slice ([P.opcCresp] ++ r ++ le32 seed ++ be32 ip ++ tail) 8 4 = le32 seed := by
    rw [List.append_assoc _ (be32 ip)]
    exact slice_append_middle _ hhead (length_le32 seed)
  have hip : slice ([P.opcCresp] ++ r ++ le32 seed ++ be32 ip ++ tail) 12 4 = be32 ip :=
    slice_append_middle tail (by rw [List.length_append, hhead, length_le32]) (length_be32 ip)
  rw [cresp_of_sixteen_le hlen rfl, hseed, hip, fromLe32_le32, fromBe32_be32]

/-! DEC_CRESP (R164) -/

/-- Where the capacity test passes (R206), DEC_CRESP ends as the parse of its input. -/
theorem exec_decCresp_of_fits {s : State} (hcap : s.ilen.toNat ≤ Config.ibufCap) :
    exec .decCresp s = .next (s.complete ((cresp Config.params s.input).map s.storeResponse)) := by
  have hfits : s.checkIlen = .ok () := if_neg (Nat.not_lt.mpr hcap)
  rw [exec_decCresp_eq, decCrespResult, hfits]
  rfl

theorem exec_decCresp_of_error {s : State} {e : ErrCode} (hcap : s.ilen.toNat ≤ Config.ibufCap)
    (h : cresp Config.params s.input = .error e) : exec .decCresp s = .next (s.ended e.code) := by
  rw [exec_decCresp_of_fits hcap, h]
  rfl

/-- A length that is too short for a whole response always fits IBUF (R11). -/
theorem exec_decCresp_of_short {s : State} (hpos : 1 ≤ s.ilen.toNat) (hshort : s.ilen.toNat < 16)
    (hopc : s.ibuf.read 0 = Config.opcCresp) :
    exec .decCresp s = .next (s.ended
      (if s.ilen.toNat < 8 then 0x12 else if s.ilen.toNat < 12 then 0x13 else 0x14)) := by
  have hfirst : byteAt s.input 0 = Config.params.opcCresp := (State.byteAt_input hpos).trans hopc
  have hparse := cresp_of_opcode (by rwa [s.length_input]) hfirst
  rw [s.length_input, if_pos hshort] at hparse
  rw [exec_decCresp_of_fits (hshort.le.trans sixteen_le_ibufCap), hparse]
  split
  · rfl
  · split <;> rfl

/-- Settles O19: the table of R165, row by row. -/
theorem decCrespErrorsByLengthAndOpcode : Obligations.DecCrespErrorsByLengthAndOpcode := by
  intro s
  refine ⟨fun hzero => ?_, fun hpos hcap hopc => ?_, fun hlow hhigh hopc => ?_, fun hlow hhigh hopc => ?_,
    fun hlow hhigh hopc => ?_⟩
  · have hempty : s.input = [] := List.length_eq_zero_iff.mp (s.length_input.trans hzero)
    exact exec_decCresp_of_error (by omega) (hempty ▸ cresp_nil Config.params)
  · have hfirst : byteAt s.input 0 ≠ Config.params.opcCresp := by rwa [State.byteAt_input hpos]
    exact exec_decCresp_of_error hcap (cresp_of_mismatch (by rwa [s.length_input]) hfirst)
  · rw [exec_decCresp_of_short hlow (by omega) hopc, if_pos (by omega)]
  · rw [exec_decCresp_of_short (by omega) (by omega) hopc, if_neg (by omega), if_pos (by omega)]
  · rw [exec_decCresp_of_short (by omega) (by omega) hopc, if_neg (by omega), if_neg (by omega)]

/-! The delivered fields, in the bytes of IBUF (R15, R163) -/

theorem fromBe32_eq_littleWord (b0 b1 b2 b3 : Byte) : fromBe32 [b0, b1, b2, b3] = littleWord b3 b2 b1 b0 :=
  fromLe32_eq_littleWord b3 b2 b1 b0

theorem State.slice_input {s : State} {a n : Nat} (h : a + n ≤ s.ilen.toNat) :
    slice s.input a n = (List.range n).map fun k => s.ibuf.read (a + k) := by
  rw [slice_eq_map (by rwa [s.length_input])]
  refine List.map_congr_left fun k hk => State.byteAt_input ?_
  have hlt : k < n := List.mem_range.mp hk
  omega

/-- Settles O18: both fields lie inside the sixteen bytes, the seed read little-endian and the address big-endian. -/
theorem decCrespDeliversSeedAndAddress : Obligations.DecCrespDeliversSeedAndAddress := by
  intro s hlen hcap hopc
  have hfirst : byteAt s.input 0 = Config.params.opcCresp := (State.byteAt_input (by omega)).trans hopc
  have hseed : fromLe32 (slice s.input 8 4) =
      littleWord (s.ibuf.read 8) (s.ibuf.read 9) (s.ibuf.read 10) (s.ibuf.read 11) := by
    rw [State.slice_input (by omega)]
    exact fromLe32_eq_littleWord _ _ _ _
  have hip : fromBe32 (slice s.input 12 4) =
      littleWord (s.ibuf.read 15) (s.ibuf.read 14) (s.ibuf.read 13) (s.ibuf.read 12) := by
    rw [State.slice_input (by omega)]
    exact fromBe32_eq_littleWord _ _ _ _
  rw [exec_decCresp_of_fits hcap, cresp_of_sixteen_le (by rwa [s.length_input]) hfirst, hseed, hip]
  rfl

end Sys2Proof.Machine

/-! PROOFS of the family 44_heartbeat_request.md. The mode of a request by its seed (`hbMode_eq_ok`), the parts of a
packet that encodes (`hb_eq_ok`), and the fold of mode None as an exclusive or of words, where equal changes cancel
(`heartbeatFold_flip`). ENC_HB ends as `emitHb` of the request of the operand registers does. -/

namespace Sys2Proof.Machine

/-! ENC_HB (R177) -/

/-- The closed form's header and content bytes are those of the request of the operand registers. -/
theorem State.request_head (s : State) : s.request.head Config.params = headOf s := rfl

/-- Settles O21: in mode None the heartbeat of the operand registers always encodes. -/
theorem encHbModeNoneEmitsFoldProduct : Obligations.EncHbModeNoneEmitsFoldProduct := by
  intro s h
  rw [exec_encHb, ← s.request_head]
  exact emitHb_of_ok (hb_modeNone (q := s.request) h)

/-- Settles O22: the request of the operand registers has the seed of the state. -/
theorem encHbDigestModesEmitRetainedBytes : Obligations.EncHbDigestModesEmitRetainedBytes := by
  intro s h
  rw [exec_encHb, ← s.request_head]
  exact emitHb_digestEnds s (q := s.request) h

/-! The mode of a request (R181, R127) -/

theorem hbMode_eq_ok (q : Request) : ∃ m, hbMode q = .ok m ∧ m.number.toNat = q.seed.toNat % 3 := by
  have hbyte : (BitVec.ofNat 8 (q.seed.toNat % 3)).toNat = q.seed.toNat % 3 := by
    rw [BitVec.toNat_ofNat]
    omega
  rcases fromMode_cases (BitVec.ofNat 8 (q.seed.toNat % 3)) with ⟨m, hnum, hm⟩ | ⟨hge, -⟩
  · exact ⟨m, hm, hnum.trans hbyte⟩
  · omega

/-- Settles O25: SHA1 has the number 3, which is no remainder modulo 3. -/
theorem heartbeatNeverSelectsSha1 : Obligations.HeartbeatNeverSelectsSha1 := by
  intro q
  obtain ⟨m, hm, hnum⟩ := hbMode_eq_ok q
  refine ⟨m, hm, hnum, ?_⟩
  rintro rfl
  have hthree : Mode.sha1.number.toNat = 3 := rfl
  omega

/-! Which requests encode, and to what (R176, R185, R186) -/

/-- The hash of the seed is the only part that can fail. -/
theorem hb_ok_of_digestLenStd {P : Params} (hstd : P.DigestLenStd) (q : Request) : ∃ out, hb P q = .ok out := by
  obtain ⟨m, hm, hnum⟩ := hbMode_eq_ok q
  by_cases hnone : m = .none
  · subst hnone
    exact ⟨_, hb_modeNone hnum.symm⟩
  · obtain ⟨kept, hkept⟩ := hash_ok_of_digestLenStd hstd m (le32 q.seed)
    rw [hb_of_hash hm hnone, hkept]
    exact ⟨_, rfl⟩

/-- Settles O24: with the standard digest lengths no hash fails, and mode None reads no digest. -/
theorem heartbeatEncodingIsTotal : Obligations.HeartbeatEncodingIsTotal :=
  ⟨fun _ hstd q => hb_ok_of_digestLenStd hstd q, fun _ _ h => ⟨_, hb_modeNone h⟩⟩

/-- A packet that encodes: 24 bytes of header and content, 8 of checksum, 64 of padding. -/
theorem hb_eq_ok {P : Params} {q : Request} {out : List Byte} (h : hb P q = .ok out) :
    ∃ f2 : List Byte, f2.length = 8 ∧ out = q.head P ++ f2 ++ List.replicate 64 0x00 := by
  rw [hb_eq_map] at h
  cases hfoot : hbFoot2 P q with
  | ok f2 =>
    rw [hfoot] at h
    cases h
    exact ⟨f2, length_hbFoot2 hfoot, rfl⟩
  | error e =>
    rw [hfoot] at h
    cases h

@[simp] theorem Request.length_head (P : Params) (q : Request) : (q.head P).length = 24 := rfl

/-- R176: the length field of the header. -/
theorem lengthField_head (P : Params) (q : Request) (rest : List Byte) :
    byteAt (q.head P ++ rest) 2 = 0x60 ∧ byteAt (q.head P ++ rest) 3 = 0x00 := ⟨rfl, rfl⟩

/-- R182: the multiplied fold fills four of the eight checksum bytes. -/
theorem slice_heartbeatFallback (P : Params) (q : Request) (c : U32) (rest : List Byte) :
    slice (q.head P ++ heartbeatFallback c ++ rest) 28 4 = [0x00, 0x00, 0x00, 0x00] := rfl

/-- Settles O23: each law is about one part of the packet. -/
theorem heartbeatPacketLaws : Obligations.HeartbeatPacketLaws := by
  intro P q out h
  obtain ⟨f2, hlen, hout⟩ := hb_eq_ok h
  refine ⟨length_hb h, ?declared, ?padding, fun hmode => ?fallback⟩
  case declared =>
    obtain ⟨hlow, hhigh⟩ := lengthField_head P q (f2 ++ List.replicate 64 0x00)
    rw [hout, List.append_assoc, hlow, hhigh]
    rfl
  case padding =>
    rw [hout]
    exact List.drop_left' (by rw [List.length_append, Request.length_head, hlen])
  case fallback =>
    rw [hb_modeNone hmode] at h
    cases h
    exact slice_heartbeatFallback P q _ _

/-! The fold of mode None (R184) -/

/-- Mode None: the checksum field is the multiplied fold of the request (R182). -/
theorem hbFoot2_modeNone {P : Params} {q : Request} (h : q.seed.toNat % 3 = 0) : hbFoot2 P q =
    .ok (heartbeatFallback (heartbeatFold P.opcHb q.seq q.typeId q.uidLen q.mac q.ip q.flag q.seed)) := by
  have hmode : hbMode q = .ok .none := hbMode_of_rem h
  rw [hbFoot2_none hmode, xorWords_heartbeat, heartbeatFallback_eq]

/-- Bit 0 of byte 1 of a word is bit 8 of the word. -/
theorem littleWord_flip_byte1 (b0 b1 b2 b3 : Byte) :
    littleWord b0 (b1 ^^^ 1) b2 b3 = littleWord b0 b1 b2 b3 ^^^ 0x100 := by
  have happend : ∀ b : Byte, littleWord b0 b b2 b3 = b3 ++ b2 ++ b ++ b0 := fun b =>
    (fromLe32_eq_littleWord b0 b b2 b3).symm
  have hmask : (0x100 : U32) = (0 : Byte) ++ (0 : Byte) ++ (1 : Byte) ++ (0 : Byte) := rfl
  rw [happend, happend, hmask, BitVec.xor_append, BitVec.xor_append, BitVec.xor_append]
  simp

/-- The two flag constants differ in bit 8 alone (R180). -/
theorem flagConst_of_ne {f f' : HbFlag} (h : f' ≠ f) : flagConst f' = flagConst f ^^^ 0x100 := by
  cases f with
  | first => cases f' with
    | first => exact absurd rfl h
    | notFirst => rfl
  | notFirst => cases f' with
    | first => rfl
    | notFirst => exact absurd rfl h

/-- R184: the fold with the flag's word by the name of its constant. -/
theorem heartbeatFold_eq (opc seq typeId uidLen : Byte) (mac : Bytes6) (ip : U32) (flag : HbFlag) (seed : U32) :
    heartbeatFold opc seq typeId uidLen mac ip flag seed =
      littleWord opc seq 0x60 0x00 ^^^ littleWord typeId uidLen mac.b0 mac.b1 ^^^
        littleWord mac.b2 mac.b3 mac.b4 mac.b5 ^^^ littleWord (octet ip 3) (octet ip 2) (octet ip 1) (octet ip 0) ^^^
        flagConst flag ^^^ seed ^^^ 20000711 ^^^ 126 := by
  cases flag <;> rfl

/-- The same change `d` of the first and the last of five words cancels. -/
theorem xor_change_twice (a x y z b d : U32) :
    (a ^^^ d) ^^^ x ^^^ y ^^^ z ^^^ (b ^^^ d) = a ^^^ x ^^^ y ^^^ z ^^^ b := by
  have hswap : (a ^^^ d) ^^^ x ^^^ y ^^^ z ^^^ (b ^^^ d) = (a ^^^ x ^^^ y ^^^ z ^^^ b) ^^^ (d ^^^ d) := by ac_rfl
  rw [hswap, BitVec.xor_self, BitVec.xor_zero]

/-- R184: both changes flip bit 8 of a word of the fold, so together they cancel. -/
theorem heartbeatFold_flip (opc seq typeId uidLen : Byte) (mac : Bytes6) (ip : U32) {f f' : HbFlag} (seed : U32)
    (h : f' ≠ f) :
    heartbeatFold opc (seq ^^^ 1) typeId uidLen mac ip f' seed = heartbeatFold opc seq typeId uidLen mac ip f seed := by
  rw [heartbeatFold_eq, heartbeatFold_eq, littleWord_flip_byte1, flagConst_of_ne h, xor_change_twice]

/-- R184: the fold is all that enters the checksum field, and the two changes leave it as it was. -/
theorem hbFoot2_flip {P : Params} {q : Request} {f : HbFlag} (h : q.seed.toNat % 3 = 0) (hf : f ≠ q.flag) :
    hbFoot2 P { q with seq := q.seq ^^^ 1, flag := f } = hbFoot2 P q := by
  have hflipped := hbFoot2_modeNone (P := P) (q := { q with seq := q.seq ^^^ 1, flag := f }) h
  rw [hflipped, heartbeatFold_flip _ _ _ _ _ _ _ hf, hbFoot2_modeNone h]

/-- Settles O27: the other flag is a different one. -/
theorem heartbeatFoldIsNotInjective : Obligations.HeartbeatFoldIsNotInjective := by
  intro P q h
  refine hbFoot2_flip h ?_
  cases q.flag <;> decide

/-! The flag (R180, R33) -/

/-- Settles O26: the wire bytes are those of the encoder's own flag table. -/
theorem flagConstantsOnTheWire : Obligations.FlagConstantsOnTheWire :=
  ⟨rfl, rfl, le32_flagConst .first, le32_flagConst .notFirst, rfl, rfl⟩

end Sys2Proof.Machine

/-! PROOFS of the family 60_exceptions.md. How every instruction can end (`exec_err_cases`), the rows of R204 by the
instruction decoded (`errRow_of_decode`), and the statements settled with them. -/

namespace Sys2Proof.Machine

/-! Which errors the pure functions answer (R201) -/

theorem except_map_eq_error {ε α β : Type} {x : Except ε α} {f : α → β} {e : ε} (h : x.map f = .error e) :
    x = .error e := by
  cases x with
  | ok a => cases h
  | error e' =>
    cases h
    rfl

theorem fromMode_error {b : Byte} {e : ErrCode} (h : fromMode b = .error e) : e = .modeNotExist := by
  rcases fromMode_cases b with ⟨m, -, hm⟩ | ⟨-, herr⟩
  · cases hm.symm.trans h
  · cases herr.symm.trans h
    rfl

theorem hash_error {P : Params} {m : Mode} {input : List Byte} {e : ErrCode} (h : Machine.hash P m input = .error e) :
    e = .retainCount := by
  rcases extract_cases m (rawDigest P m input) with ⟨-, hok⟩ | ⟨-, herr⟩
  · cases hok.symm.trans h
  · cases herr.symm.trans h
    rfl

theorem crc32_error {bytes : List Byte} {initial : U32} {e : ErrCode} (h : crc32 bytes initial = .error e) :
    e = .inputLengthInvalid := by
  rcases crc32_cases bytes initial with ⟨-, herr⟩ | ⟨-, hok⟩
  · cases herr.symm.trans h
    rfl
  · cases hok.symm.trans h

/-- The errors of the parse of a Challenge Response, in the order its tests are made (R165). -/
def parseErrors : List ErrCode := [.readOpcode, .opcodeMismatch, .readReserved, .readSeed, .readSrcip]

theorem cresp_error {P : Params} {S : List Byte} {e : ErrCode} (h : cresp P S = .error e) : e ∈ parseErrors := by
  rw [cresp_eq] at h
  split_ifs at h <;> cases h <;> decide

/-- Only the hash of the seed can fail: the selector is a remainder modulo 3, and mode None has no error (R185). -/
theorem hb_error {P : Params} {q : Request} {e : ErrCode} (h : hb P q = .error e) : e = .retainCount := by
  obtain ⟨m, hm, hnum⟩ := hbMode_eq_ok q
  by_cases hnone : m = .none
  · subst hnone
    cases (hb_modeNone hnum.symm).symm.trans h
  · exact hash_error (except_map_eq_error ((hb_of_hash hm hnone).symm.trans h))

theorem hashResult_error {s : State} {e : ErrCode} (hcap : s.ilen.toNat ≤ Config.ibufCap)
    (h : hashResult s = .error e) : e = .modeNotExist ∨ e = .retainCount := by
  rw [hashResult_eq, if_neg (Nat.not_lt.mpr hcap)] at h
  cases hm : fromMode s.mode with
  | error e' =>
    rw [hm] at h
    cases h
    exact .inl (fromMode_error hm)
  | ok m =>
    rw [hm] at h
    exact .inr (hash_error h)

/-! Which errors an instruction can end with (R204, R206) -/

/-- The errors of an instruction: for a command the error codes of its row of R204, for a packet those that its
command's row has but E_ILEN_RANGE (assumption log 6). -/
def errorsOf : Instr → List ErrCode
  | .modesel => [.modeNotExist]
  | .hash => [.modeNotExist, .retainCount, .ilenRange]
  | .crc32 => [.inputLengthInvalid, .ilenRange]
  | .encCreq => []
  | .decCresp => parseErrors ++ [.ilenRange]
  | .encHb => [.retainCount]
  | .pktCreq _ => []
  | .pktCresp _ => parseErrors
  | .pktHb _ => [.retainCount]

/-- The first test of HASH, CRC32 and DEC_CRESP fails (R206). -/
def RangeFails (i : Instr) (s : State) : Prop :=
  (i = .hash ∨ i = .crc32 ∨ i = .decCresp) ∧ Config.ibufCap < s.ilen.toNat

theorem ilenRange_mem_errorsOf {i : Instr} {s : State} (h : RangeFails i s) : .ilenRange ∈ errorsOf i := by
  obtain ⟨rfl | rfl | rfl, -⟩ := h <;> decide

/-- The test comes before every other (R206, R207), so nothing else decides how the command ends. -/
theorem exec_of_rangeFails {i : Instr} {s : State} (h : RangeFails i s) : exec i s = .next (s.raise .ilenRange) := by
  obtain ⟨rfl | rfl | rfl, hlong⟩ := h
  · exact exec_hash_of_error ((hashResult_eq s).trans (if_pos hlong))
  · exact exec_crc32_of_error ((crc32Result_eq s).trans (if_pos hlong))
  · have hcheck : s.checkIlen = .error .ilenRange := if_pos hlong
    rw [exec_decCresp_eq, decCrespResult, hcheck]
    rfl

/-- An outcome that ends a `Complete` move begun in `s` with success or with one of `errors` that is not
E_ILEN_RANGE. -/
def EndsWithin (errors : List ErrCode) (s : State) (o : Host.Outcome State Fault Refusal) : Prop :=
  ∃ r, o = .next (s.complete r) ∧ ∀ e, r = .error e → e ∈ errors ∧ e ≠ .ilenRange

theorem endsWithin_map {α : Type} {errors : List ErrCode} {s : State} {x : Except ErrCode α} {put : α → State}
    (h : ∀ e, x = .error e → e ∈ errors ∧ e ≠ .ilenRange) :
    EndsWithin errors s (.next (s.complete (x.map put))) :=
  ⟨_, rfl, fun e he => h e (except_map_eq_error he)⟩

theorem parseErrors_ne_ilenRange {e : ErrCode} (h : e ∈ parseErrors) : e ≠ .ilenRange := by
  rintro rfl
  exact absurd h (by decide)

/-- ENC_HB and PKT_HB: the same errors for any request. -/
theorem emitHb_endsWithin (s : State) (q : Request) : EndsWithin [.retainCount] s (emitHb s q) := by
  rw [emitHb_eq]
  refine endsWithin_map fun e he => ?_
  cases hb_error he
  decide

/-- Where the test of R206 is not made or passes, an instruction succeeds or ends with another error of its row. -/
theorem exec_of_not_rangeFails {i : Instr} {s : State} (h : ¬ RangeFails i s) :
    EndsWithin (errorsOf i) s (exec i s) := by
  have hcap (hi : i = .hash ∨ i = .crc32 ∨ i = .decCresp) : s.ilen.toNat ≤ Config.ibufCap :=
    Nat.not_lt.mp fun hlong => h ⟨hi, hlong⟩
  cases i with
  | modesel =>
    rw [exec_modesel_eq]
    refine endsWithin_map fun e he => ?_
    cases fromMode_error he
    decide
  | hash =>
    rw [exec_hash_eq]
    refine endsWithin_map fun e he => ?_
    rcases hashResult_error (hcap (.inl rfl)) he with rfl | rfl <;> decide
  | crc32 =>
    have hresult := (crc32Result_eq s).trans (if_neg (Nat.not_lt.mpr (hcap (.inr (.inl rfl)))))
    rw [exec_crc32_eq, hresult]
    refine endsWithin_map fun e he => ?_
    cases crc32_error he
    decide
  | decCresp =>
    rw [exec_decCresp_of_fits (hcap (.inr (.inr rfl)))]
    exact endsWithin_map fun e he =>
      ⟨List.mem_append_left _ (cresp_error he), parseErrors_ne_ilenRange (cresp_error he)⟩
  | pktCresp p =>
    rw [exec_pktCresp_eq]
    exact endsWithin_map fun e he => ⟨cresp_error he, parseErrors_ne_ilenRange (cresp_error he)⟩
  | encCreq => exact endsWithin_map (x := .ok (creq Config.params s.seq)) fun e he => by cases he
  | pktCreq p => exact endsWithin_map (x := .ok (creq Config.params p.seq)) fun e he => by cases he
  | encHb => exact emitHb_endsWithin s s.request
  | pktHb p => exact emitHb_endsWithin s p.request

/-- Every end of an instruction: success, or an error of its row that is E_ILEN_RANGE exactly where R206 says. -/
theorem exec_err_cases {i : Instr} {s t : State} (h : exec i s = .next t) :
    (¬ RangeFails i s ∧ t.status.err = okCode) ∨
      ∃ e ∈ errorsOf i, t = s.raise e ∧ (e = .ilenRange ↔ RangeFails i s) := by
  by_cases hrange : RangeFails i s
  · cases (exec_of_rangeFails hrange).symm.trans h
    exact .inr ⟨.ilenRange, ilenRange_mem_errorsOf hrange, rfl, iff_of_true rfl hrange⟩
  · obtain ⟨r, hexec, herrors⟩ := exec_of_not_rangeFails hrange
    cases hexec.symm.trans h
    cases r with
    | ok u => exact .inl ⟨hrange, rfl⟩
    | error e =>
      obtain ⟨hmem, hne⟩ := herrors e rfl
      exact .inr ⟨e, hmem, rfl, iff_of_false hne hrange⟩

/-! The command codes (R91, R93) -/

theorem decodeCommand_eq_none_iff (code : Byte) : decodeCommand code = none ↔ code = 0x00 ∨ 0x07 ≤ code.toNat := by
  have hzero : code = 0x00 ↔ code.toNat = 0 := BitVec.toNat_inj.symm
  rw [hzero, decodeCommand]
  split
  case h_7 h1 h2 h3 h4 h5 h6 =>
    have hne : code.toNat ≠ 1 ∧ code.toNat ≠ 2 ∧ code.toNat ≠ 3 ∧ code.toNat ≠ 4 ∧ code.toNat ≠ 5 ∧ code.toNat ≠ 6 :=
      ⟨h1, h2, h3, h4, h5, h6⟩
    exact iff_of_true rfl (by omega)
  all_goals exact iff_of_false nofun (by omega)

/-- The illegal codes are 0x00 and those from 0x07 on (R93). -/
theorem decode_cmd8_eq_error_iff (code : Byte) :
    (∃ e, decode .cmd8 [code] = .error e) ↔ code = 0x00 ∨ 0x07 ≤ code.toNat := by
  rw [← decodeCommand_eq_none_iff]
  simp only [decode, decodeCmd8]
  cases decodeCommand code with
  | some i => exact iff_of_false nofun nofun
  | none => exact iff_of_true ⟨_, rfl⟩ rfl

/-! ERR in the row of LASTOP (R204) -/

/-- The row of a command code is OK and the errors of its command. -/
theorem errRow_of_decode {code : Byte} {i : Instr} (h : decode .cmd8 [code] = .ok i) :
    errRow code = okCode :: (errorsOf i).map ErrCode.code := by
  obtain ⟨hformat, hcode⟩ := encode_of_decodeCmd8 (bs := [code]) h
  cases i with
  | pktCreq p => cases hformat
  | pktCresp p => cases hformat
  | pktHb p => cases hformat
  | _ =>
    cases hcode
    rfl

theorem errRow_of_illegal {code : Byte} {e : DecodeError} (h : decode .cmd8 [code] = .error e) :
    errRow code = [0x80] := by
  have hnumber := (decode_cmd8_eq_error_iff code).mp ⟨e, h⟩
  have hne : ∀ n : Byte, n ≠ 0x00 → n.toNat < 7 → code ≠ n := by
    rintro _ hn hlt rfl
    exact hnumber.elim hn (Nat.not_le.mpr hlt)
  rw [errRow, if_neg (hne 0x01 (by decide) (by decide)), if_neg (hne 0x02 (by decide) (by decide)),
    if_neg (hne 0x03 (by decide) (by decide)), if_neg (hne 0x04 (by decide) (by decide)),
    if_neg (hne 0x05 (by decide) (by decide)), if_neg (hne 0x06 (by decide) (by decide))]

/-- The command started ends with ERR in its own row. -/
theorem exec_err_mem_errRow {i : Instr} {s t : State} (hcode : decode .cmd8 [s.status.lastop] = .ok i)
    (h : exec i s = .next t) : t.status.err ∈ errRow t.status.lastop := by
  have hlastop : t.status.lastop = s.status.lastop := by rw [exec_frame h]; rfl
  rw [hlastop, errRow_of_decode hcode]
  rcases exec_err_cases h with ⟨-, hok⟩ | ⟨e, hmem, rfl, -⟩
  · rw [hok]
    exact List.mem_cons_self
  · exact List.mem_cons_of_mem _ (List.mem_map_of_mem hmem)

theorem State.ErrFitsLastop.of_status_eq {s t : State} (h : t.status = s.status) (hs : s.ErrFitsLastop) :
    t.ErrFitsLastop := by
  rw [State.ErrFitsLastop, h]
  exact hs

/-- Of the registers CMD alone reaches STATUS, and a write of it sets BUSY (R25). -/
theorem errFitsLastop_writeReg {s : State} (r : Reg) (v : BitVec r.width) (hs : s.ErrFitsLastop) :
    (s.writeReg r v).ErrFitsLastop := by
  cases r with
  | cmd => exact nofun
  | _ => exact hs

theorem errFitsLastop_hostEffect {s t : State} (h : HostEffect s t) (hs : s.ErrFitsLastop) : t.ErrFitsLastop := by
  cases h with
  | unchanged h => exact hs.of_status_eq h.status
  | wroteReg r v _ _ => exact errFitsLastop_writeReg r v hs
  | wroteIbuf i b _ _ => exact hs
  | wasReset h =>
    have hreset : State.reset.ErrFitsLastop := fun _ => .inr ⟨rfl, rfl⟩
    exact hreset.of_status_eq h.status

theorem errFitsLastop_hostMove {s : State} (hs : s.ErrFitsLastop) : s.hostMove.ErrFitsLastop := by
  cases hscript : s.script with
  | nil =>
    rw [State.hostMove_nil hscript]
    exact hs
  | cons op rest =>
    rw [State.hostMove_cons hscript]
    exact errFitsLastop_hostEffect (State.performOp_effect _ op) hs

/-- Settles O54: the core sets ERR to a code of the row of LASTOP; the host starts a command, leaves STATUS alone, or
resets it. -/
theorem stepKeepsErrInTheRowOfLastop : Obligations.StepKeepsErrInTheRowOfLastop := by
  intro s t hs h
  rcases step_cases s with ⟨-, -, i, hcode, hrun⟩ | ⟨-, -, e, hcode, hillegal⟩ | ⟨-, -, hpass⟩ | ⟨-, hhost⟩
  · have hexec : exec i s.takeTurn = .next t := hrun.symm.trans h
    exact fun _ => .inl (exec_err_mem_errRow (s := s.takeTurn) hcode hexec)
  · cases hillegal.symm.trans h
    have hrow : errRow (s.takeTurn.raise .illegalCmd).status.lastop = [0x80] := errRow_of_illegal hcode
    exact fun _ => .inl (hrow ▸ List.mem_singleton_self _)
  · cases hpass.symm.trans h
    exact hs
  · cases hhost.symm.trans h
    exact errFitsLastop_hostMove (s := s.takeTurn) hs

/-! The core's turn on a started command (R20, R210) -/

theorem step_cases_of_started {s : State} (hagent : s.nextAgent = .core) (hbusy : s.status.busy = true) :
    (∃ i, decode .cmd8 [s.status.lastop] = .ok i ∧ step s = exec i s.takeTurn) ∨
    (∃ e, decode .cmd8 [s.status.lastop] = .error e ∧ step s = .next (s.takeTurn.raise .illegalCmd)) := by
  rcases step_cases s with ⟨-, -, hruns⟩ | ⟨-, -, hillegal⟩ | ⟨-, hidle, -⟩ | ⟨hhost, -⟩
  · exact .inl hruns
  · exact .inr hillegal
  · cases hbusy.symm.trans hidle
  · cases hagent.symm.trans hhost

/-- Settles O3: the code in LASTOP decodes to nothing. -/
theorem illegalCodeCompletesWithError : Obligations.IllegalCodeCompletesWithError := by
  intro s hagent hbusy hcode
  obtain ⟨e, he⟩ := (decode_cmd8_eq_error_iff s.status.lastop).mpr hcode
  rcases step_cases_of_started hagent hbusy with ⟨i, hi, -⟩ | ⟨-, -, hillegal⟩
  · cases he.symm.trans hi
  · exact hillegal

/-- Settles O1: the code in LASTOP decodes to the instruction that is run. -/
theorem stepRunsTheStartedCommand : Obligations.StepRunsTheStartedCommand := by
  intro s i hagent hbusy hcode _
  rcases step_cases_of_started hagent hbusy with ⟨j, hj, hrun⟩ | ⟨e, he, -⟩
  · cases hcode.symm.trans hj
    exact hrun
  · cases hcode.symm.trans he

/-! Errors of all instructions (R203, R206) -/

theorem ErrCode.code_eq_ilenRange_iff (e : ErrCode) : e.code = 0x81 ↔ e = .ilenRange := by
  cases e <;> decide

/-- Settles O34: E_ILEN_RANGE alone has the code 0x81. -/
theorem ilenRangeErrorExactly : Obligations.IlenRangeErrorExactly := by
  intro i s t h
  rcases exec_err_cases h with ⟨hfits, hok⟩ | ⟨e, -, rfl, hiff⟩
  · have hne : t.status.err ≠ 0x81 := by rw [hok]; decide
    exact ⟨iff_of_false hne hfits, fun herr => absurd herr hne⟩
  · refine ⟨e.code_eq_ilenRange_iff.trans hiff, fun herr => ?_⟩
    rw [e.code_eq_ilenRange_iff.mp herr]
    rfl

/-- Settles O35: an error is raised from the state the command began in, and a success has ERR 0x00. -/
theorem failureChangesStatusOnly : Obligations.FailureChangesStatusOnly := by
  intro i s t h herr
  rcases exec_err_cases h with ⟨-, hok⟩ | ⟨e, -, rfl, -⟩
  · exact absurd hok herr
  · rfl

/-! The machine goes on (R200) -/

/-- Settles O55: an instruction always answers a next state, and every other move is one. -/
theorem everyStepGoesOn : Obligations.EveryStepGoesOn := by
  intro s
  rcases step_cases s with ⟨-, -, i, -, hrun⟩ | ⟨-, -, e, -, hillegal⟩ | ⟨-, -, hpass⟩ | ⟨-, hhost⟩
  · exact hrun ▸ exec_goes i s.takeTurn
  · exact ⟨_, hillegal⟩
  · exact ⟨_, hpass⟩
  · exact ⟨_, hhost⟩

end Sys2Proof.Machine

/-! PROOFS of the family 70_reset_and_hazards.md. What the host reads after a reset (`State.hostRead_reset`), and what one
step makes of a command under way (`step_of_busy`), with the statements settled with them. -/

namespace Sys2Proof.Machine

/-! The state after reset (R240, R242) -/

theorem State.errFitsLastop_reset : State.reset.ErrFitsLastop := fun _ => .inr ⟨rfl, rfl⟩

/-- Settles O51: each invariant that the steps keep holds at reset. -/
theorem resetMeetsTheInvariants : Obligations.ResetMeetsTheInvariants :=
  ⟨buffersCanonical_kept.reset, legalOlenErr_kept.reset, State.errFitsLastop_reset⟩

/-- The reset values of R240: TYPE_ID alone is not 0. -/
theorem State.hostRead_reset (l : Loc) : (State.reset.hostRead l).toNat = if l = .reg .typeId then 3 else 0 := by
  cases l with
  | reg r => cases r <;> rfl
  | unassigned n asked => exact BitVec.toNat_zero
  | ibuf i => exact congrArg BitVec.toNat (ite_self 0#8)
  | obuf i => exact congrArg BitVec.toNat (ite_self 0#8)

/-- Settles O45: the block after the move is that of reset, and the host sees the block only. -/
theorem resetMoveRestoresEveryLocation : Obligations.ResetMoveRestoresEveryLocation := by
  intro s rest hnext
  have hblock : SameBlock State.reset (s.afterTurn rest).resetMove := rfl
  refine ⟨_, hostTurnPerformsNextOperation.left s _ rest hnext, hblock, rfl, rfl, rfl, fun l => ?_⟩
  exact (congrArg BitVec.toNat (hblock.hostRead l)).trans (State.hostRead_reset l)

/-! A started command ends (R250) -/

/-- Success and failure both let BUSY fall (R210, R211, R203). -/
theorem exec_ends (i : Instr) (s : State) : ∃ t, exec i s = .next t ∧ t.status.busy = false := by
  rcases exec_cases i s with ⟨u, -, hsucceed⟩ | ⟨e, hraise⟩
  · exact ⟨_, hsucceed, rfl⟩
  · exact ⟨_, hraise, rfl⟩

/-- The core's turn completes a started command, whatever its code. -/
theorem step_ends_of_core {s : State} (hagent : s.nextAgent = .core) (hbusy : s.status.busy = true) :
    ∃ t, step s = .next t ∧ t.status.busy = false := by
  rcases step_cases_of_started hagent hbusy with ⟨i, -, hrun⟩ | ⟨e, -, hillegal⟩
  · exact hrun ▸ exec_ends i s.takeTurn
  · exact ⟨_, hillegal, rfl⟩

/-- Whatever the host does while a command is under way, the command is over (by `Reset`) or waits on for the turns
that were left. -/
theorem State.hostMove_cases_of_busy {s : State} (hbusy : s.status.busy = true) :
    s.hostMove.status.busy = false ∨ (s.hostMove.status.busy = true ∧ s.hostMove.turns = s.turns) := by
  cases hscript : s.script with
  | nil =>
    rw [State.hostMove_nil hscript]
    exact .inr ⟨hbusy, rfl⟩
  | cons op rest =>
    rw [State.hostMove_cons hscript]
    by_cases hop : op = .move .reset
    · subst hop
      exact .inl rfl
    · obtain ⟨hblock, hturns, -⟩ := State.performOp_of_busy (s := { s with script := rest }) hbusy hop
      exact .inr ⟨(congrArg Status.busy hblock.status).trans hbusy, hturns⟩

/-- The host is to move in a busy state only where its turn is listed (assumption log 11). -/
theorem State.turns_of_host_of_busy {s : State} (hagent : s.nextAgent = .host) (hbusy : s.status.busy = true) :
    s.turns = .host :: s.turns.tail := by
  cases hturns : s.turns with
  | nil => simp [State.nextAgent, hturns, hbusy] at hagent
  | cons a ts =>
    have ha : a = .host := by simpa only [State.nextAgent, hturns] using hagent
    rw [ha, List.tail_cons]

/-- One step on a started command ends it, or uses up a listed turn of the host. -/
theorem step_of_busy {s : State} (hbusy : s.status.busy = true) :
    ∃ t, step s = .next t ∧
      (t.status.busy = false ∨ (t.status.busy = true ∧ s.turns = .host :: t.turns)) := by
  cases hagent : s.nextAgent with
  | core =>
    obtain ⟨t, hstep, hidle⟩ := step_ends_of_core hagent hbusy
    exact ⟨t, hstep, .inl hidle⟩
  | host =>
    have hturns := State.turns_of_host_of_busy hagent hbusy
    rcases State.hostMove_cases_of_busy (s := s.takeTurn) hbusy with hidle | ⟨hstill, hrest⟩
    · exact ⟨_, step_of_host hagent, .inl hidle⟩
    · exact ⟨_, step_of_host hagent, .inr ⟨hstill, hrest ▸ hturns⟩⟩

/-- Settles O56, by induction on the turns listed: a step that does not end the command leaves one turn fewer. -/
theorem startedCommandEnds : Obligations.StartedCommandEnds := by
  intro s hbusy
  induction hlisted : s.turns generalizing s with
  | nil =>
    obtain ⟨t, hstep, hidle | ⟨-, hturns⟩⟩ := step_of_busy hbusy
    · exact ⟨1, t, Nat.le_refl 1, run_one_of_step hstep, hidle⟩
    · cases hlisted.symm.trans hturns
  | cons a ts ih =>
    obtain ⟨t, hstep, hidle | ⟨hstill, hturns⟩⟩ := step_of_busy hbusy
    · exact ⟨1, t, Nat.le_add_left 1 _, run_one_of_step hstep, hidle⟩
    · obtain ⟨-, hrest⟩ := List.cons.inj (hlisted.symm.trans hturns)
      obtain ⟨k, u, hk, hrun, hidle⟩ := ih t hstill hrest.symm
      exact ⟨k + 1, u, Nat.succ_le_succ hk, (run_succ_of_step k hstep).trans hrun, hidle⟩

end Sys2Proof.Machine
